-- ==== Sys2Proof/Word.lean ====
section
/-! DEFINITION. The word, byte and address types (spec/00_scope.md R6, R7). -/

namespace Sys2Proof

/-- A 32-bit value: a general register, CPSR, SPSR, a coprocessor register, an instruction word (R6, XLEN). -/
abbrev Word := BitVec 32

/-- One addressable unit of memory (R60). -/
abbrev Byte := BitVec 8

/-- An address on the router, and the widest value a device carries (R6, BUS_ADDR_BITS, ROUTER_WIDTH). -/
abbrev Addr := BitVec 64

/-- A general register number, 0 to 15 (R20). -/
abbrev Reg := Fin 16

/-- Register 15, the program counter (R25). -/
abbrev Reg.pc : Reg := 15

/-- Register 14, the link register of BL and BLX (R21). -/
abbrev Reg.lr : Reg := 14

end Sys2Proof
end

