-- ==== Sys2Proof/Syntax.lean ====
section
/-! DEFINITION. The instructions: one constructor for each of the 55 rows of spec/opcode_table.json, in the table's
order, holding the fields that row names. A row's `x` bits, which the decoder does not look at (R118, R126), are no
operands. -/

namespace Sys2Proof

/-- The fifteen conditions (R140). Code 1111 (NV) is no condition (R104), so it is no constructor. -/
inductive Cond where
  | eq | ne | cs | cc | mi | pl | vs | vc | hi | ls | ge | lt | gt | le | al
deriving DecidableEq, Repr

/-- The `shift` field (R103). -/
inductive ShiftKind where
  | lsl | lsr | asr | ror
deriving DecidableEq, Repr

/-- The operand of format DPI and of MSR immediate (R112): `rotate_imm` and `imm8`. -/
structure ImmOperand where
  rot  : BitVec 4
  imm8 : BitVec 8
deriving DecidableEq, Repr

/-- The operand of format DPS (R112): `shift_imm`, `shift` and `Rm`. -/
structure ShiftOperand where
  amount : BitVec 5
  kind   : ShiftKind
  rm     : Reg
deriving DecidableEq, Repr

/-- The operands of format LSI (R113). -/
structure LsOperand where
  p : Bool
  u : Bool
  w : Bool
  rn : Reg
  rd : Reg
  imm12 : BitVec 12
deriving DecidableEq, Repr

/-- The operands of format LSM (R114) but for the S bit. -/
structure LsmOperand where
  p : Bool
  u : Bool
  w : Bool
  rn : Reg
  list : BitVec 16
deriving DecidableEq, Repr

/-- The operands of formats MCR and MRC (R115). -/
structure CpOperand where
  opcode1 : BitVec 3
  crn : BitVec 4
  rd : Reg
  cp : Fin 16
  opcode2 : BitVec 3
  crm : BitVec 4
deriving DecidableEq, Repr

/-- The operands of format CDP (R115). -/
structure CdpOperand where
  opcode1 : BitVec 4
  crn : BitVec 4
  crd : BitVec 4
  cp : Fin 16
  opcode2 : BitVec 3
  crm : BitVec 4
deriving DecidableEq, Repr

/-- An instruction. `c` is the condition, `sf` the S bit, `r` the R bit of MRS and MSR (false CPSR, true SPSR). -/
inductive Instr where
  | blx (h : Bool) (offset : BitVec 24)
  | undefinedNv
  | dpRegisterShift (c : Cond) (opcode : BitVec 4) (sf : Bool) (rn rd rs : Reg) (kind : ShiftKind) (rm : Reg)
  | multiplyExtendedSpace (c : Cond)
  | mrs (c : Cond) (r : Bool) (rd : Reg)
  | msrReg (c : Cond) (r : Bool) (mask : BitVec 4) (rm : Reg)
  | msrImm (c : Cond) (r : Bool) (mask : BitVec 4) (op : ImmOperand)
  | dpImmediateEmptySlot (c : Cond)
  | andImm (c : Cond) (sf : Bool) (rn rd : Reg) (op : ImmOperand)
  | andShift (c : Cond) (sf : Bool) (rn rd : Reg) (op : ShiftOperand)
  | eorImm (c : Cond) (sf : Bool) (rn rd : Reg) (op : ImmOperand)
  | eorShift (c : Cond) (sf : Bool) (rn rd : Reg) (op : ShiftOperand)
  | subImm (c : Cond) (sf : Bool) (rn rd : Reg) (op : ImmOperand)
  | subShift (c : Cond) (sf : Bool) (rn rd : Reg) (op : ShiftOperand)
  | rsbImm (c : Cond) (sf : Bool) (rn rd : Reg) (op : ImmOperand)
  | rsbShift (c : Cond) (sf : Bool) (rn rd : Reg) (op : ShiftOperand)
  | addImm (c : Cond) (sf : Bool) (rn rd : Reg) (op : ImmOperand)
  | addShift (c : Cond) (sf : Bool) (rn rd : Reg) (op : ShiftOperand)
  | adcImm (c : Cond) (sf : Bool) (rn rd : Reg) (op : ImmOperand)
  | adcShift (c : Cond) (sf : Bool) (rn rd : Reg) (op : ShiftOperand)
  | sbcImm (c : Cond) (sf : Bool) (rn rd : Reg) (op : ImmOperand)
  | sbcShift (c : Cond) (sf : Bool) (rn rd : Reg) (op : ShiftOperand)
  | rscImm (c : Cond) (sf : Bool) (rn rd : Reg) (op : ImmOperand)
  | rscShift (c : Cond) (sf : Bool) (rn rd : Reg) (op : ShiftOperand)
  | tstImm (c : Cond) (rn rd : Reg) (op : ImmOperand)
  | tstShift (c : Cond) (rn rd : Reg) (op : ShiftOperand)
  | teqImm (c : Cond) (rn rd : Reg) (op : ImmOperand)
  | teqShift (c : Cond) (rn rd : Reg) (op : ShiftOperand)
  | cmpImm (c : Cond) (rn rd : Reg) (op : ImmOperand)
  | cmpShift (c : Cond) (rn rd : Reg) (op : ShiftOperand)
  | cmnImm (c : Cond) (rn rd : Reg) (op : ImmOperand)
  | cmnShift (c : Cond) (rn rd : Reg) (op : ShiftOperand)
  | orrImm (c : Cond) (sf : Bool) (rn rd : Reg) (op : ImmOperand)
  | orrShift (c : Cond) (sf : Bool) (rn rd : Reg) (op : ShiftOperand)
  | movImm (c : Cond) (sf : Bool) (rn rd : Reg) (op : ImmOperand)
  | movShift (c : Cond) (sf : Bool) (rn rd : Reg) (op : ShiftOperand)
  | bicImm (c : Cond) (sf : Bool) (rn rd : Reg) (op : ImmOperand)
  | bicShift (c : Cond) (sf : Bool) (rn rd : Reg) (op : ShiftOperand)
  | mvnImm (c : Cond) (sf : Bool) (rn rd : Reg) (op : ImmOperand)
  | mvnShift (c : Cond) (sf : Bool) (rn rd : Reg) (op : ShiftOperand)
  | ldr (c : Cond) (m : LsOperand)
  | str (c : Cond) (m : LsOperand)
  | ldrb (c : Cond) (m : LsOperand)
  | strb (c : Cond) (m : LsOperand)
  | lsRegisterOffset (c : Cond) (p u b w l : Bool) (rn rd : Reg) (op : ShiftOperand)
  | ldm (c : Cond) (m : LsmOperand)
  | stm (c : Cond) (m : LsmOperand)
  | lsmSBit (c : Cond) (l : Bool) (m : LsmOperand)
  | b (c : Cond) (offset : BitVec 24)
  | bl (c : Cond) (offset : BitVec 24)
  | ldcStc (c : Cond) (p u n w l : Bool) (rn : Reg) (crd : BitVec 4) (cp : Fin 16) (offset8 : BitVec 8)
  | cdp (c : Cond) (d : CdpOperand)
  | mcr (c : Cond) (d : CpOperand)
  | mrc (c : Cond) (d : CpOperand)
  | swi (c : Cond) (number : BitVec 24)
deriving DecidableEq, Repr

/-- The condition field of an instruction that has one (R104: BLX and the other NV words have none). -/
def Instr.cond? : Instr → Option Cond
  | .blx _ _ | .undefinedNv => none
  | .dpRegisterShift c _ _ _ _ _ _ _ | .multiplyExtendedSpace c | .mrs c _ _ | .msrReg c _ _ _ | .msrImm c _ _ _
  | .dpImmediateEmptySlot c
  | .andImm c _ _ _ _ | .andShift c _ _ _ _ | .eorImm c _ _ _ _ | .eorShift c _ _ _ _
  | .subImm c _ _ _ _ | .subShift c _ _ _ _ | .rsbImm c _ _ _ _ | .rsbShift c _ _ _ _
  | .addImm c _ _ _ _ | .addShift c _ _ _ _ | .adcImm c _ _ _ _ | .adcShift c _ _ _ _
  | .sbcImm c _ _ _ _ | .sbcShift c _ _ _ _ | .rscImm c _ _ _ _ | .rscShift c _ _ _ _
  | .tstImm c _ _ _ | .tstShift c _ _ _ | .teqImm c _ _ _ | .teqShift c _ _ _
  | .cmpImm c _ _ _ | .cmpShift c _ _ _ | .cmnImm c _ _ _ | .cmnShift c _ _ _
  | .orrImm c _ _ _ _ | .orrShift c _ _ _ _ | .movImm c _ _ _ _ | .movShift c _ _ _ _
  | .bicImm c _ _ _ _ | .bicShift c _ _ _ _ | .mvnImm c _ _ _ _ | .mvnShift c _ _ _ _
  | .ldr c _ | .str c _ | .ldrb c _ | .strb c _ | .lsRegisterOffset c _ _ _ _ _ _ _ _
  | .ldm c _ | .stm c _ | .lsmSBit c _ _ | .b c _ | .bl c _ | .ldcStc c _ _ _ _ _ _ _ _ _
  | .cdp c _ | .mcr c _ | .mrc c _ | .swi c _ => some c

end Sys2Proof
end

