-- ==== Sys2Proof/Decode.lean ====
section
/-! DEFINITION. The decoder, total on words and on bytes (spec/30_encoding.md R100 to R118), the encoder written from the
same formats (R112 to R115), and the opcode table's rows as masks and matches (R117, R126). -/

namespace Sys2Proof

/-- The field of `n` bits whose lowest bit is `lo` (R7). -/
def bits (w : Word) (lo n : Nat) : BitVec n :=
  w.extractLsb' lo n

/-- One bit of a word (R7). -/
def bit (w : Word) (k : Nat) : Bool :=
  w.getLsbD k

/-- The register number whose lowest bit is `lo`. -/
def regAt (w : Word) (lo : Nat) : Reg :=
  ⟨(bits w lo 4).toNat, (bits w lo 4).isLt⟩

/-- The condition of a code; none for 1111 (R140, R104). -/
def Cond.ofCode (code : Nat) : Option Cond :=
  match code with
  | 0 => some .eq
  | 1 => some .ne
  | 2 => some .cs
  | 3 => some .cc
  | 4 => some .mi
  | 5 => some .pl
  | 6 => some .vs
  | 7 => some .vc
  | 8 => some .hi
  | 9 => some .ls
  | 10 => some .ge
  | 11 => some .lt
  | 12 => some .gt
  | 13 => some .le
  | 14 => some .al
  | _ => none

/-- The code of a condition (R140). -/
def Cond.code : Cond → Nat
  | .eq => 0
  | .ne => 1
  | .cs => 2
  | .cc => 3
  | .mi => 4
  | .pl => 5
  | .vs => 6
  | .vc => 7
  | .hi => 8
  | .ls => 9
  | .ge => 10
  | .lt => 11
  | .gt => 12
  | .le => 13
  | .al => 14

/-- The shift type of a two-bit code (R103). -/
def ShiftKind.ofCode (code : Nat) : ShiftKind :=
  match code with
  | 0 => .lsl
  | 1 => .lsr
  | 2 => .asr
  | _ => .ror

/-- The code of a shift type (R103). -/
def ShiftKind.code : ShiftKind → Nat
  | .lsl => 0
  | .lsr => 1
  | .asr => 2
  | .ror => 3

/-! ## Operand fields -/

/-- The operand of formats DPI and MSRI (R112). -/
def immOperandAt (w : Word) : ImmOperand :=
  { rot := bits w 8 4, imm8 := bits w 0 8 }

/-- The operand of formats DPS and LSR (R112, R113). -/
def shiftOperandAt (w : Word) : ShiftOperand :=
  { amount := bits w 7 5, kind := ShiftKind.ofCode (bits w 5 2).toNat, rm := regAt w 0 }

/-- The operands of format LSI (R113). -/
def lsOperandAt (w : Word) : LsOperand :=
  { p := bit w 24, u := bit w 23, w := bit w 21, rn := regAt w 16, rd := regAt w 12, imm12 := bits w 0 12 }

/-- The operands of format LSM (R114). -/
def lsmOperandAt (w : Word) : LsmOperand :=
  { p := bit w 24, u := bit w 23, w := bit w 21, rn := regAt w 16, list := bits w 0 16 }

/-- The operands of formats MCR and MRC (R115). -/
def cpOperandAt (w : Word) : CpOperand :=
  { opcode1 := bits w 21 3, crn := bits w 16 4, rd := regAt w 12, cp := regAt w 8, opcode2 := bits w 5 3,
    crm := bits w 0 4 }

/-- The operands of format CDP (R115). -/
def cdpOperandAt (w : Word) : CdpOperand :=
  { opcode1 := bits w 20 4, crn := bits w 16 4, crd := bits w 12 4, cp := regAt w 8, opcode2 := bits w 5 3,
    crm := bits w 0 4 }

/-! ## The decode tree (R104 to R111, R274) -/

/-- Bits [27:25] = 001: the immediate form, MSR immediate and the empty slot (R106, R110, R111). -/
def decodeImmediate (c : Cond) (w : Word) : Instr :=
  let sf := bit w 20
  let rn := regAt w 16
  let rd := regAt w 12
  let op := immOperandAt w
  match (bits w 21 4).toNat with
  | 0 => .andImm c sf rn rd op
  | 1 => .eorImm c sf rn rd op
  | 2 => .subImm c sf rn rd op
  | 3 => .rsbImm c sf rn rd op
  | 4 => .addImm c sf rn rd op
  | 5 => .adcImm c sf rn rd op
  | 6 => .sbcImm c sf rn rd op
  | 7 => .rscImm c sf rn rd op
  | 8 => if sf then .tstImm c rn rd op else .dpImmediateEmptySlot c
  | 9 => if sf then .teqImm c rn rd op else .msrImm c false (bits w 16 4) op
  | 10 => if sf then .cmpImm c rn rd op else .dpImmediateEmptySlot c
  | 11 => if sf then .cmnImm c rn rd op else .msrImm c true (bits w 16 4) op
  | 12 => .orrImm c sf rn rd op
  | 13 => .movImm c sf rn rd op
  | 14 => .bicImm c sf rn rd op
  | _ => .mvnImm c sf rn rd op

/-- Bits [27:25] = 000 and bit 4 = 0: the immediate-shift form, MRS and MSR register (R106, R110, R111). -/
def decodeShift (c : Cond) (w : Word) : Instr :=
  let sf := bit w 20
  let rn := regAt w 16
  let rd := regAt w 12
  let op := shiftOperandAt w
  match (bits w 21 4).toNat with
  | 0 => .andShift c sf rn rd op
  | 1 => .eorShift c sf rn rd op
  | 2 => .subShift c sf rn rd op
  | 3 => .rsbShift c sf rn rd op
  | 4 => .addShift c sf rn rd op
  | 5 => .adcShift c sf rn rd op
  | 6 => .sbcShift c sf rn rd op
  | 7 => .rscShift c sf rn rd op
  | 8 => if sf then .tstShift c rn rd op else .mrs c false rd
  | 9 => if sf then .teqShift c rn rd op else .msrReg c false (bits w 16 4) (regAt w 0)
  | 10 => if sf then .cmpShift c rn rd op else .mrs c true rd
  | 11 => if sf then .cmnShift c rn rd op else .msrReg c true (bits w 16 4) (regAt w 0)
  | 12 => .orrShift c sf rn rd op
  | 13 => .movShift c sf rn rd op
  | 14 => .bicShift c sf rn rd op
  | _ => .mvnShift c sf rn rd op

/-- Bits [27:25] = 000 (R106): the two NotImplemented classes are tested before the opcode. -/
def decodeDataProcessing (c : Cond) (w : Word) : Instr :=
  if bit w 4 then
    if bit w 7 then .multiplyExtendedSpace c
    else .dpRegisterShift c (bits w 21 4) (bit w 20) (regAt w 16) (regAt w 12) (regAt w 8)
      (ShiftKind.ofCode (bits w 5 2).toNat) (regAt w 0)
  else decodeShift c w

/-- Bits [27:25] = 010 (R107, R113): B and L select. -/
def decodeLoadStore (c : Cond) (w : Word) : Instr :=
  match bit w 22, bit w 20 with
  | false, true => .ldr c (lsOperandAt w)
  | false, false => .str c (lsOperandAt w)
  | true, true => .ldrb c (lsOperandAt w)
  | true, false => .strb c (lsOperandAt w)

/-- Bits [27:25] = 100 (R108, R114): S and L select. -/
def decodeMultiple (c : Cond) (w : Word) : Instr :=
  if bit w 22 then .lsmSBit c (bit w 20) (lsmOperandAt w)
  else if bit w 20 then .ldm c (lsmOperandAt w)
  else .stm c (lsmOperandAt w)

/-- Bits [27:25] = 111 (R109, R115). -/
def decodeCoprocessor (c : Cond) (w : Word) : Instr :=
  if bit w 24 then .swi c (bits w 0 24)
  else if bit w 4 then
    if bit w 20 then .mrc c (cpOperandAt w) else .mcr c (cpOperandAt w)
  else .cdp c (cdpOperandAt w)

/-- Level 1 for a word whose condition is not NV (R105, R274). -/
def decodeConditional (c : Cond) (w : Word) : Instr :=
  match (bits w 25 3).toNat with
  | 0 => decodeDataProcessing c w
  | 1 => decodeImmediate c w
  | 2 => decodeLoadStore c w
  | 3 => .lsRegisterOffset c (bit w 24) (bit w 23) (bit w 22) (bit w 21) (bit w 20) (regAt w 16) (regAt w 12)
      (shiftOperandAt w)
  | 4 => decodeMultiple c w
  | 5 => if bit w 24 then .bl c (bits w 0 24) else .b c (bits w 0 24)
  | 6 => .ldcStc c (bit w 24) (bit w 23) (bit w 22) (bit w 21) (bit w 20) (regAt w 16) (bits w 12 4) (regAt w 8)
      (bits w 0 8)
  | _ => decodeCoprocessor c w

/-- The instruction of a word (R101: of the word alone). Level 0 is the condition (R104). -/
def decode (w : Word) : Instr :=
  match Cond.ofCode (bits w 28 4).toNat with
  | some c => decodeConditional c w
  | none => if (bits w 25 3).toNat = 5 then .blx (bit w 24) (bits w 0 24) else .undefinedNv

/-- Why bytes hold no instruction. -/
inductive DecodeError where
  /-- fewer than the four bytes of an instruction (R100) -/
  | truncated
deriving DecidableEq, Repr

/-- The word of four bytes, the one at the lowest address first (R78, R100). -/
def wordOfBytes (b0 b1 b2 b3 : Byte) : Word :=
  BitVec.ofNat 32 (b0.toNat + 256 * b1.toNat + 65536 * b2.toNat + 16777216 * b3.toNat)

/-- The bytes of a word, the one at the lowest address first (R78, R100). -/
def bytesOfWord (w : Word) : List Byte :=
  [w.extractLsb' 0 8, w.extractLsb' 8 8, w.extractLsb' 16 8, w.extractLsb' 24 8]

/-- The first instruction of a list of bytes and the bytes after it. -/
def decodeBytes : List Byte → Except DecodeError (Instr × List Byte)
  | b0 :: b1 :: b2 :: b3 :: rest => .ok (decode (wordOfBytes b0 b1 b2 b3), rest)
  | _ => .error .truncated

/-- The instruction the decoder reads from a row's bits as spec/opcode_table.json numbers them: laid out as four bytes
in the hardware's order and given to the decoder. Bits from `nbits` up are 0. -/
def decodeTableWord (nbits w : Nat) : Option Instr :=
  match decodeBytes (bytesOfWord (BitVec.ofNat 32 (w % 2 ^ nbits))) with
  | .ok (instr, _) => some instr
  | .error _ => none

/-! ## The encoder -/

/-- The word whose fields, bit 31 first, are the given (width, value) pairs. -/
def pack (fields : List (Nat × Nat)) : Word :=
  BitVec.ofNat 32 (fields.foldl (fun acc f => acc * 2 ^ f.1 + f.2) 0)

/-- Formats DPI and DPS, whose fields differ only below bit 12: `form` is bits [27:25] and `low` the twelve low bits. -/
def packDp (c : Cond) (form opcode : Nat) (sf : Bool) (rn rd : Reg) (low : List (Nat × Nat)) : Word :=
  pack ([(4, c.code), (3, form), (4, opcode), (1, sf.toNat), (4, rn.val), (4, rd.val)] ++ low)

/-- Bits [11:0] of format DPI (R112). -/
def packImm (op : ImmOperand) : List (Nat × Nat) :=
  [(4, op.rot.toNat), (8, op.imm8.toNat)]

/-- Bits [11:0] of format DPS (R112). -/
def packShift (op : ShiftOperand) : List (Nat × Nat) :=
  [(5, op.amount.toNat), (2, op.kind.code), (1, 0), (4, op.rm.val)]

/-- Format LSI (R113). -/
def packLs (c : Cond) (b l : Bool) (m : LsOperand) : Word :=
  pack [(4, c.code), (3, 2), (1, m.p.toNat), (1, m.u.toNat), (1, b.toNat), (1, m.w.toNat), (1, l.toNat), (4, m.rn.val),
    (4, m.rd.val), (12, m.imm12.toNat)]

/-- Format LSM (R114). -/
def packLsm (c : Cond) (sBit l : Bool) (m : LsmOperand) : Word :=
  pack [(4, c.code), (3, 4), (1, m.p.toNat), (1, m.u.toNat), (1, sBit.toNat), (1, m.w.toNat), (1, l.toNat),
    (4, m.rn.val), (16, m.list.toNat)]

/-- Formats MCR and MRC (R115). -/
def packCp (c : Cond) (l : Bool) (d : CpOperand) : Word :=
  pack [(4, c.code), (4, 14), (3, d.opcode1.toNat), (1, l.toNat), (4, d.crn.toNat), (4, d.rd.val), (4, d.cp.val),
    (3, d.opcode2.toNat), (1, 1), (4, d.crm.toNat)]

/-- The word of an instruction. The bits its row does not look at are the values in parentheses of R112, else 0. -/
def encode : Instr → Word
  | .blx h offset => pack [(7, 125), (1, h.toNat), (24, offset.toNat)]
  | .undefinedNv => pack [(4, 15), (28, 0)]
  | .dpRegisterShift c opcode sf rn rd rs kind rm =>
      packDp c 0 opcode.toNat sf rn rd [(4, rs.val), (1, 0), (2, kind.code), (1, 1), (4, rm.val)]
  | .multiplyExtendedSpace c => pack [(4, c.code), (3, 0), (17, 0), (1, 1), (2, 0), (1, 1), (4, 0)]
  | .mrs c r rd => pack [(4, c.code), (5, 2), (1, r.toNat), (2, 0), (4, 15), (4, rd.val), (12, 0)]
  | .msrReg c r mask rm =>
      pack [(4, c.code), (5, 2), (1, r.toNat), (2, 2), (4, mask.toNat), (4, 15), (8, 0), (4, rm.val)]
  | .msrImm c r mask op =>
      pack ([(4, c.code), (5, 6), (1, r.toNat), (2, 2), (4, mask.toNat), (4, 15)] ++ packImm op)
  | .dpImmediateEmptySlot c => pack [(4, c.code), (5, 6), (1, 0), (2, 0), (20, 0)]
  | .andImm c sf rn rd op => packDp c 1 0 sf rn rd (packImm op)
  | .andShift c sf rn rd op => packDp c 0 0 sf rn rd (packShift op)
  | .eorImm c sf rn rd op => packDp c 1 1 sf rn rd (packImm op)
  | .eorShift c sf rn rd op => packDp c 0 1 sf rn rd (packShift op)
  | .subImm c sf rn rd op => packDp c 1 2 sf rn rd (packImm op)
  | .subShift c sf rn rd op => packDp c 0 2 sf rn rd (packShift op)
  | .rsbImm c sf rn rd op => packDp c 1 3 sf rn rd (packImm op)
  | .rsbShift c sf rn rd op => packDp c 0 3 sf rn rd (packShift op)
  | .addImm c sf rn rd op => packDp c 1 4 sf rn rd (packImm op)
  | .addShift c sf rn rd op => packDp c 0 4 sf rn rd (packShift op)
  | .adcImm c sf rn rd op => packDp c 1 5 sf rn rd (packImm op)
  | .adcShift c sf rn rd op => packDp c 0 5 sf rn rd (packShift op)
  | .sbcImm c sf rn rd op => packDp c 1 6 sf rn rd (packImm op)
  | .sbcShift c sf rn rd op => packDp c 0 6 sf rn rd (packShift op)
  | .rscImm c sf rn rd op => packDp c 1 7 sf rn rd (packImm op)
  | .rscShift c sf rn rd op => packDp c 0 7 sf rn rd (packShift op)
  | .tstImm c rn rd op => packDp c 1 8 true rn rd (packImm op)
  | .tstShift c rn rd op => packDp c 0 8 true rn rd (packShift op)
  | .teqImm c rn rd op => packDp c 1 9 true rn rd (packImm op)
  | .teqShift c rn rd op => packDp c 0 9 true rn rd (packShift op)
  | .cmpImm c rn rd op => packDp c 1 10 true rn rd (packImm op)
  | .cmpShift c rn rd op => packDp c 0 10 true rn rd (packShift op)
  | .cmnImm c rn rd op => packDp c 1 11 true rn rd (packImm op)
  | .cmnShift c rn rd op => packDp c 0 11 true rn rd (packShift op)
  | .orrImm c sf rn rd op => packDp c 1 12 sf rn rd (packImm op)
  | .orrShift c sf rn rd op => packDp c 0 12 sf rn rd (packShift op)
  | .movImm c sf rn rd op => packDp c 1 13 sf rn rd (packImm op)
  | .movShift c sf rn rd op => packDp c 0 13 sf rn rd (packShift op)
  | .bicImm c sf rn rd op => packDp c 1 14 sf rn rd (packImm op)
  | .bicShift c sf rn rd op => packDp c 0 14 sf rn rd (packShift op)
  | .mvnImm c sf rn rd op => packDp c 1 15 sf rn rd (packImm op)
  | .mvnShift c sf rn rd op => packDp c 0 15 sf rn rd (packShift op)
  | .ldr c m => packLs c false true m
  | .str c m => packLs c false false m
  | .ldrb c m => packLs c true true m
  | .strb c m => packLs c true false m
  | .lsRegisterOffset c p u b w l rn rd op =>
      pack ([(4, c.code), (3, 3), (1, p.toNat), (1, u.toNat), (1, b.toNat), (1, w.toNat), (1, l.toNat), (4, rn.val),
        (4, rd.val)] ++ packShift op)
  | .ldm c m => packLsm c false true m
  | .stm c m => packLsm c false false m
  | .lsmSBit c l m => packLsm c true l m
  | .b c offset => pack [(4, c.code), (4, 10), (24, offset.toNat)]
  | .bl c offset => pack [(4, c.code), (4, 11), (24, offset.toNat)]
  | .ldcStc c p u n w l rn crd cp offset8 =>
      pack [(4, c.code), (3, 6), (1, p.toNat), (1, u.toNat), (1, n.toNat), (1, w.toNat), (1, l.toNat), (4, rn.val),
        (4, crd.toNat), (4, cp.val), (8, offset8.toNat)]
  | .cdp c d =>
      pack [(4, c.code), (4, 14), (4, d.opcode1.toNat), (4, d.crn.toNat), (4, d.crd.toNat), (4, d.cp.val),
        (3, d.opcode2.toNat), (1, 0), (4, d.crm.toNat)]
  | .mcr c d => packCp c false d
  | .mrc c d => packCp c true d
  | .swi c number => pack [(4, c.code), (4, 15), (24, number.toNat)]

/-! ## The opcode table -/

/-- One row of spec/opcode_table.json: its priority, `match`, `mask`, and the bits its `encoding` does not mark `x`. -/
structure OpcodeRow where
  priority : Nat
  value : Word
  mask : Word
  looked : Word
deriving DecidableEq, Repr

/-- Rows of priorities 1 to 8, whose order matters (R117). -/
def opcodeRowsEscapes : List OpcodeRow :=
  [⟨1, 0xfa000000#32, 0xfe000000#32, 0xffffffff#32⟩,
   ⟨2, 0xf0000000#32, 0xf0000000#32, 0xf0000000#32⟩,
   ⟨3, 0x00000010#32, 0x0e000090#32, 0xffffffff#32⟩,
   ⟨4, 0x00000090#32, 0x0e000090#32, 0xfe000090#32⟩,
   ⟨5, 0x01000000#32, 0x0fb00010#32, 0xfff0f010#32⟩,
   ⟨6, 0x01200000#32, 0x0fb00010#32, 0xffff001f#32⟩,
   ⟨7, 0x03200000#32, 0x0fb00000#32, 0xffff0fff#32⟩,
   ⟨8, 0x03000000#32, 0x0fb00000#32, 0xffb00000#32⟩]

/-- Rows of priorities 9 to 40. -/
def opcodeRowsDataProcessing : List OpcodeRow :=
  [⟨9, 0x02000000#32, 0x0fe00000#32, 0xffffffff#32⟩,
   ⟨10, 0x00000000#32, 0x0fe00010#32, 0xffffffff#32⟩,
   ⟨11, 0x02200000#32, 0x0fe00000#32, 0xffffffff#32⟩,
   ⟨12, 0x00200000#32, 0x0fe00010#32, 0xffffffff#32⟩,
   ⟨13, 0x02400000#32, 0x0fe00000#32, 0xffffffff#32⟩,
   ⟨14, 0x00400000#32, 0x0fe00010#32, 0xffffffff#32⟩,
   ⟨15, 0x02600000#32, 0x0fe00000#32, 0xffffffff#32⟩,
   ⟨16, 0x00600000#32, 0x0fe00010#32, 0xffffffff#32⟩,
   ⟨17, 0x02800000#32, 0x0fe00000#32, 0xffffffff#32⟩,
   ⟨18, 0x00800000#32, 0x0fe00010#32, 0xffffffff#32⟩,
   ⟨19, 0x02a00000#32, 0x0fe00000#32, 0xffffffff#32⟩,
   ⟨20, 0x00a00000#32, 0x0fe00010#32, 0xffffffff#32⟩,
   ⟨21, 0x02c00000#32, 0x0fe00000#32, 0xffffffff#32⟩,
   ⟨22, 0x00c00000#32, 0x0fe00010#32, 0xffffffff#32⟩,
   ⟨23, 0x02e00000#32, 0x0fe00000#32, 0xffffffff#32⟩,
   ⟨24, 0x00e00000#32, 0x0fe00010#32, 0xffffffff#32⟩,
   ⟨25, 0x03100000#32, 0x0ff00000#32, 0xffffffff#32⟩,
   ⟨26, 0x01100000#32, 0x0ff00010#32, 0xffffffff#32⟩,
   ⟨27, 0x03300000#32, 0x0ff00000#32, 0xffffffff#32⟩,
   ⟨28, 0x01300000#32, 0x0ff00010#32, 0xffffffff#32⟩,
   ⟨29, 0x03500000#32, 0x0ff00000#32, 0xffffffff#32⟩,
   ⟨30, 0x01500000#32, 0x0ff00010#32, 0xffffffff#32⟩,
   ⟨31, 0x03700000#32, 0x0ff00000#32, 0xffffffff#32⟩,
   ⟨32, 0x01700000#32, 0x0ff00010#32, 0xffffffff#32⟩,
   ⟨33, 0x03800000#32, 0x0fe00000#32, 0xffffffff#32⟩,
   ⟨34, 0x01800000#32, 0x0fe00010#32, 0xffffffff#32⟩,
   ⟨35, 0x03a00000#32, 0x0fe00000#32, 0xffffffff#32⟩,
   ⟨36, 0x01a00000#32, 0x0fe00010#32, 0xffffffff#32⟩,
   ⟨37, 0x03c00000#32, 0x0fe00000#32, 0xffffffff#32⟩,
   ⟨38, 0x01c00000#32, 0x0fe00010#32, 0xffffffff#32⟩,
   ⟨39, 0x03e00000#32, 0x0fe00000#32, 0xffffffff#32⟩,
   ⟨40, 0x01e00000#32, 0x0fe00010#32, 0xffffffff#32⟩]

/-- Rows of priorities 41 to 55. -/
def opcodeRowsRest : List OpcodeRow :=
  [⟨41, 0x04100000#32, 0x0e500000#32, 0xffffffff#32⟩,
   ⟨42, 0x04000000#32, 0x0e500000#32, 0xffffffff#32⟩,
   ⟨43, 0x04500000#32, 0x0e500000#32, 0xffffffff#32⟩,
   ⟨44, 0x04400000#32, 0x0e500000#32, 0xffffffff#32⟩,
   ⟨45, 0x06000000#32, 0x0e000000#32, 0xffffffef#32⟩,
   ⟨46, 0x08100000#32, 0x0e500000#32, 0xffffffff#32⟩,
   ⟨47, 0x08000000#32, 0x0e500000#32, 0xffffffff#32⟩,
   ⟨48, 0x08400000#32, 0x0e400000#32, 0xffffffff#32⟩,
   ⟨49, 0x0a000000#32, 0x0f000000#32, 0xffffffff#32⟩,
   ⟨50, 0x0b000000#32, 0x0f000000#32, 0xffffffff#32⟩,
   ⟨51, 0x0c000000#32, 0x0e000000#32, 0xffffffff#32⟩,
   ⟨52, 0x0e000000#32, 0x0f000010#32, 0xffffffff#32⟩,
   ⟨53, 0x0e000010#32, 0x0f100010#32, 0xffffffff#32⟩,
   ⟨54, 0x0e100010#32, 0x0f100010#32, 0xffffffff#32⟩,
   ⟨55, 0x0f000000#32, 0x0f000000#32, 0xffffffff#32⟩]

/-- The whole table in the order listed (R117). -/
def opcodeRows : List OpcodeRow :=
  opcodeRowsEscapes ++ opcodeRowsDataProcessing ++ opcodeRowsRest

/-- Whether a row matches a word: `w & mask = match` (R117). -/
def OpcodeRow.accepts (r : OpcodeRow) (w : Word) : Bool :=
  w &&& r.mask == r.value

/-- The first row in the order listed that matches (R117). -/
def firstRow (w : Word) : Option OpcodeRow :=
  opcodeRows.find? (·.accepts w)

/-- The priority of an instruction's row. -/
def Instr.row : Instr → Nat
  | .blx _ _ => 1
  | .undefinedNv => 2
  | .dpRegisterShift _ _ _ _ _ _ _ _ => 3
  | .multiplyExtendedSpace _ => 4
  | .mrs _ _ _ => 5
  | .msrReg _ _ _ _ => 6
  | .msrImm _ _ _ _ => 7
  | .dpImmediateEmptySlot _ => 8
  | .andImm _ _ _ _ _ => 9
  | .andShift _ _ _ _ _ => 10
  | .eorImm _ _ _ _ _ => 11
  | .eorShift _ _ _ _ _ => 12
  | .subImm _ _ _ _ _ => 13
  | .subShift _ _ _ _ _ => 14
  | .rsbImm _ _ _ _ _ => 15
  | .rsbShift _ _ _ _ _ => 16
  | .addImm _ _ _ _ _ => 17
  | .addShift _ _ _ _ _ => 18
  | .adcImm _ _ _ _ _ => 19
  | .adcShift _ _ _ _ _ => 20
  | .sbcImm _ _ _ _ _ => 21
  | .sbcShift _ _ _ _ _ => 22
  | .rscImm _ _ _ _ _ => 23
  | .rscShift _ _ _ _ _ => 24
  | .tstImm _ _ _ _ => 25
  | .tstShift _ _ _ _ => 26
  | .teqImm _ _ _ _ => 27
  | .teqShift _ _ _ _ => 28
  | .cmpImm _ _ _ _ => 29
  | .cmpShift _ _ _ _ => 30
  | .cmnImm _ _ _ _ => 31
  | .cmnShift _ _ _ _ => 32
  | .orrImm _ _ _ _ _ => 33
  | .orrShift _ _ _ _ _ => 34
  | .movImm _ _ _ _ _ => 35
  | .movShift _ _ _ _ _ => 36
  | .bicImm _ _ _ _ _ => 37
  | .bicShift _ _ _ _ _ => 38
  | .mvnImm _ _ _ _ _ => 39
  | .mvnShift _ _ _ _ _ => 40
  | .ldr _ _ => 41
  | .str _ _ => 42
  | .ldrb _ _ => 43
  | .strb _ _ => 44
  | .lsRegisterOffset _ _ _ _ _ _ _ _ _ => 45
  | .ldm _ _ => 46
  | .stm _ _ => 47
  | .lsmSBit _ _ _ => 48
  | .b _ _ => 49
  | .bl _ _ => 50
  | .ldcStc _ _ _ _ _ _ _ _ _ _ => 51
  | .cdp _ _ => 52
  | .mcr _ _ => 53
  | .mrc _ _ => 54
  | .swi _ _ => 55

end Sys2Proof
end

