-- ==== Sys2Proof/Config.lean ====
section
/-! DEFINITION. What is fixed before the core starts: the parameters of spec/00_scope.md R6, the device table
(spec/20_memory.md R62), and the free values, which have no body (log 1, 8, 9, 10). -/

namespace Sys2Proof

/-- ERROR_POLICY (R306): what `Fatal(UnsupportedEncoding)` does. -/
inductive ErrorPolicy where
  /-- the core stops (the decided default) -/
  | abort
  /-- the word is a logged no-operation: the spec's `continue` -/
  | carryOn
deriving DecidableEq, Repr

/-- THUMB_POLICY (R121): what a fetch with CPSR.T = 1 does. -/
inductive ThumbPolicy where
  | refuse
  | armDecode
deriving DecidableEq, Repr

/-- UNLISTED_INSTRUCTIONS (R6, D4): EOR, CMN, MRS, LDRB and STRB. -/
inductive UnlistedPolicy where
  | refuse
  | implement
deriving DecidableEq, Repr

/-- MRC_R15_FLAGS (R255, D22). -/
inductive MrcFlagsRule where
  /-- the decided default: bits [31:28] of the coprocessor value -/
  | coprocTop
  /-- any other merge of SPSR and the coprocessor value: the free function `Config.mrcMerge` (log 9) -/
  | merge
deriving DecidableEq, Repr

/-- CDP_EFFECT (R252, D23). -/
inductive CdpRule where
  /-- the decided default: no effect -/
  | identity
  /-- any other effect on the bank's values: the free function `Config.cdpValue` (log 10) -/
  | other
deriving DecidableEq, Repr

/-- DESIGN CHOICE (log 11), the model's own parameter: the operand combinations of
spec/93_implementation_defined.md U3 (register 15 as a base) and U9 (MRS into register 15). -/
inductive PcOperandPolicy where
  /-- the treatment of U3 and U9 -/
  | refuse
  /-- the value the rules give (R226, R245) -/
  | byRules
deriving DecidableEq, Repr

/-- What answers in a region (R66): RAM (R79), or another device, known by its number only (U12). -/
inductive Device where
  | ram
  | peripheral (n : Nat)
deriving DecidableEq, Repr

/-- One (base, limit, device) triple with the device's declared width in bits (R62, R66); both bounds are covered. -/
structure Region where
  base   : Addr
  limit  : Addr
  width  : Nat
  device : Device
deriving DecidableEq, Repr

/-- ADDRESS_MAP (R62). -/
abbrev AddressMap := List Region

/-- One coprocessor bank (R40): registered composite ids, rising, each with its value. -/
abbrev Bank := List (BitVec 16 × Word)

/-- The parameters of R6 that the model takes as configuration. No step changes them (log 1). -/
structure Config where
  addressMap    : AddressMap
  errorPolicy   : ErrorPolicy
  thumbPolicy   : ThumbPolicy
  unlisted      : UnlistedPolicy
  shiftZeroIs32 : Bool
  mrcFlags      : MrcFlagsRule
  cdp           : CdpRule
  pcOperands    : PcOperandPolicy
  /-- DISASSEMBLY_MODE (R321): no architectural effect, so no definition of the model reads it -/
  disassembly   : Bool
deriving DecidableEq, Repr

/-! Free values: constants without a body. A claim that mentions one holds whatever it is. -/

/-- The new N, Z, C, V of MRC with Rd = 15 from SPSR and the coprocessor value, under `MrcFlagsRule.merge`
(R255; log 9). -/
opaque Config.mrcMerge (spsr value : Word) : BitVec 4

/-- The value the registered id `id` of the bank holds after a CDP under `CdpRule.other` (R252; log 10). -/
opaque Config.cdpValue (cp : Fin 16) (opcode1 crd crn crm : BitVec 4) (opcode2 : BitVec 3) (bank : Bank)
    (id : BitVec 16) : Word

/-- What device `n` answers to a read at offset `off`, and its next state: any function of its state and of the
number of device accesses made so far, which lets it act on its own in between (R66, R93; log 8). -/
opaque Config.peripheralRead (n tick state : Nat) (off : Addr) : BitVec 64 × Nat

/-- The state of device `n` after a write of `v` at offset `off` (R66; log 8). -/
opaque Config.peripheralWrite (n tick state : Nat) (off : Addr) (v : BitVec 64) : Nat

/-- Whether device `n` calls a read of `len` bits at `off` valid (R66, R67). -/
opaque Config.peripheralTryRead (n state : Nat) (off : Addr) (len : Nat) : Bool

/-- Whether device `n` calls a write of `len` bits at `off` valid (R66, R67). -/
opaque Config.peripheralTryWrite (n state : Nat) (off : Addr) (len : Nat) : Bool

end Sys2Proof
end

