-- ==== Sys2Proof/WellFormed.lean ====
section
/-! DEFINITION. The checks made once, before the core starts: the device table (spec/20_memory.md R63, R64) and the
coprocessor banks (spec/10_state.md R40). An instruction needs no check of its own: each operand's type holds exactly the
values its field encodes, and code 1111 is no `Cond`, so an ill-formed instruction cannot be written down: every term
of `Instr` is the decoding of some word. -/

namespace Sys2Proof

/-- The set WIDTHS (R6). -/
def legalWidth (n : Nat) : Bool :=
  n == 8 || n == 16 || n == 32 || n == 64

/-- R64, for one region: `base <= limit`, the width in WIDTHS, `base` and `limit + 1` multiples of 8. -/
def Region.wf (r : Region) : Bool :=
  decide (r.base.toNat ≤ r.limit.toNat) && legalWidth r.width && r.base.toNat % 8 == 0
    && (r.limit.toNat + 1) % 8 == 0

/-- R63, for two regions: no address is covered by both. -/
def Region.disjoint (r q : Region) : Bool :=
  decide (r.limit.toNat < q.base.toNat) || decide (q.limit.toNat < r.base.toNat)

/-- R63 and R64 for the whole table. DESIGN CHOICE (log 25): two regions may name one device other than RAM, which then has one
state for both. -/
def AddressMap.wf : AddressMap → Bool
  | [] => true
  | r :: rest => r.wf && rest.all (r.disjoint ·) && AddressMap.wf rest

/-- The configuration's own check: its device table is well formed. -/
def Config.wf (g : Config) : Bool :=
  AddressMap.wf g.addressMap

/-- The ids of a bank, in order. -/
def Bank.ids (b : Bank) : List (BitVec 16) :=
  b.map Prod.fst

/-- A bank is a finite map (R40): its ids are strictly rising, so none is registered twice. -/
def Bank.wf : Bank → Bool
  | [] => true
  | (id, _) :: rest => rest.all (fun e => decide (id.toNat < e.1.toNat)) && Bank.wf rest

/-- COPROC_MAP (R6): for each of the sixteen slots, no bank or a well-formed one. -/
def coprocWf (m : Vector (Option Bank) 16) : Bool :=
  m.toList.all fun b => match b with
    | none => true
    | some b => Bank.wf b

end Sys2Proof
end

