-- ==== Sys2Proof/Machine/State.lean ====
section
/-! DEFINITION. The state of the core as plain data (spec/10_state.md), the reasons a step can stop, the canonical form
of memory, the state after reset (R49), and the free values a stop leaves (R310). -/

namespace Sys2Proof.Machine

/-- The fatal kinds of R304: the machine stops. Each is safe: the spec itself stops there and says nothing of the
state after (R310). -/
inductive Fault where
  /-- R305: raised by the three spaces the document calls unimplemented (R206, R270, R271), whatever the condition -/
  | notImplemented
  /-- R306: raised under ERROR_POLICY = abort by the encodings without a handler (R189, R223, R256, R257) and by the
  unlisted instructions under UNLISTED_INSTRUCTIONS = refuse (R171, R181, R186, R204, R205) -/
  | unsupportedEncoding
  /-- R65: raised by a fetch, load, store or host access to an address no region covers -/
  | addressRangeMiss
  /-- R73: raised by the masked access unit for a width outside 8, 16, 32, 64; no instruction issues one -/
  | invalidWidth
  /-- R76: raised by a request wider than the covering device -/
  | widthExceedsDevice
  /-- R121: raised by a fetch with CPSR.T = 1 under THUMB_POLICY = refuse -/
  | thumbState
deriving DecidableEq, Repr

/-- The refusals: operand combinations to which the spec gives the outcome `Refuse` (R10). Each is safe: no claim may
depend on what happens after. -/
inductive Refusal where
  /-- an instruction without a meaning in `exec`; the model has none -/
  | notModelled (mnemonic : String)
  /-- U2, R208: LDR, STR, LDRB, STRB with write-back and Rd = Rn -/
  | writebackRdEqRn
  /-- U3: register 15 as a written-back base of LDR, STR, LDRB, STRB, or as any base of LDM, STM, under
  `PcOperandPolicy.refuse` -/
  | baseIsPc
  /-- U4, R225: LDM, STM with W = 1 and the base in the list -/
  | baseInList
  /-- U9: MRS with Rd = 15 under `PcOperandPolicy.refuse` -/
  | mrsPc
deriving DecidableEq, Repr

/-- The stop status (R46). -/
inductive StopStatus where
  | running
  | halted
  | stoppedFault (kind : Fault)
  | stoppedRefusal (reason : Refusal)
deriving DecidableEq, Repr

/-- All state of the block (R20 to R48), the configuration it runs under (log 1), the halt input (R47, log 14) and the
counter of device accesses that feeds the free device functions (log 8). -/
structure State where
  /-- R[0] to R[15], raw: `regs.get 15` is the stored PC (R20, R25) -/
  regs : Vector Word 16
  /-- the jumped flag (R27) -/
  jumped : Bool
  /-- R30 -/
  cpsr : Word
  /-- R36 -/
  spsr : Word
  /-- the sixteen coprocessor slots (R40) -/
  coproc : Vector (Option Bank) 16
  /-- the bytes of RAM at their addresses (R79) -/
  mem : List Host.Cell
  /-- the state of each device that is not RAM, by number, as a code (R45, log 8) -/
  periph : List (Nat × Nat)
  /-- how many accesses to such devices were made (log 8) -/
  busTick : Nat
  /-- R46 -/
  stop : StopStatus
  /-- the halt request, an input (R47) -/
  haltReq : Bool
  /-- the parameters (R6) -/
  cfg : Config
deriving DecidableEq, Repr

/-- What a RAM byte that is not listed reads as. DESIGN CHOICE (log 7): the spec leaves RAM contents open (R49). -/
abbrev ramDefault : Byte := 0

/-- What the state of a device that is not listed is. DESIGN CHOICE (log 8). -/
abbrev periphDefault : Nat := 0

/-- The canonical form of a list of keyed values: keys strictly rising, no entry equal to the default. -/
def cellsWf {α : Type} [DecidableEq α] (default : α) : List (Nat × α) → Bool
  | [] => true
  | (k, v) :: rest => decide (v ≠ default) && rest.all (fun e => decide (k < e.1)) && cellsWf default rest

/-- The canonical form of memory. -/
abbrev Memory.wf (m : List Host.Cell) : Bool :=
  cellsWf ramDefault m

/-- The configuration at reset: the spec's decided default for each parameter (R6), and the model's choice where it
gives none: the device table (DESIGN CHOICE, log 2) and the treatment of U3 and U9 (log 11). -/
def defaultConfig : Config where
  addressMap := [{ base := 0, limit := 0xffff_ffff, width := 64, device := .ram }]
  errorPolicy := .abort
  thumbPolicy := .refuse
  unlisted := .refuse
  shiftZeroIs32 := true
  mrcFlags := .coprocTop
  cdp := .identity
  pcOperands := .refuse
  disassembly := false

/-- The machine right after reset (R49, R340). R0 to R14, SPSR, the CPSR bits but M and T, the coprocessor banks and RAM
are DESIGN CHOICES (log 3 to 7): the spec gives none of them. -/
def State.reset : State where
  regs := Vector.replicate 16 0
  jumped := true
  cpsr := 0x000000d3
  spsr := 0
  coproc := Vector.replicate 16 none
  mem := []
  periph := []
  busTick := 0
  stop := .running
  haltReq := false
  cfg := defaultConfig

/-! ## What a Fatal or Refuse leaves (R310) -/

/-- What raised a Fatal or Refuse: a step, or a host access to the bus. -/
inductive StopEvent where
  | step
  | read (addr : Addr) (width : Nat)
  | write (addr : Addr) (width : Nat) (v : BitVec 64)
deriving DecidableEq, Repr

/-- The state that a Fatal or Refuse leaves unspecified (R310), but for the coprocessor values. `mem` and `periph` name cells
in any order: the last one named for an address or device counts. -/
structure Unspecified where
  regs : Vector Word 16
  jumped : Bool
  cpsr : Word
  spsr : Word
  mem : List Host.Cell
  periph : List (Nat × Nat)
  busTick : Nat
deriving DecidableEq, Repr, Inhabited

end Sys2Proof.Machine

namespace Sys2Proof

/-- The unspecified state after the event `e` stopped the core in state `s` (R310; log 13): a free value. -/
opaque Config.afterStop (e : Machine.StopEvent) (s : Machine.State) : Machine.Unspecified

/-- The unspecified value that a registered coprocessor id then holds (R310; log 13): a free value. -/
opaque Config.afterStopCReg (e : Machine.StopEvent) (s : Machine.State) (cp : Fin 16) (id : BitVec 16) : Word

end Sys2Proof
end

