-- ==== Sys2Proof/Machine/Ops.lean ====
section
/-! DEFINITION. The named operations over memory, the bus and the registers: byte cells, the masked access unit and the
router (spec/20_memory.md), the register file and `nextPC` (spec/10_state.md), the coprocessor registry, and the Undefined
exception with the return from one (spec/60_exceptions.md R302, R314). -/

namespace Sys2Proof.Machine

/-! ## Keyed cells in canonical form -/

/-- The value at a key; the default where it is not listed. -/
def cellGet {α : Type} (default : α) : List (Nat × α) → Nat → α
  | [], _ => default
  | (k, v) :: rest, a => if k = a then v else cellGet default rest a

/-- Set the value at a key, keeping the canonical form: the default removes the entry. -/
def cellSet {α : Type} [DecidableEq α] (default : α) : List (Nat × α) → Nat → α → List (Nat × α)
  | [], a, v => if v = default then [] else [(a, v)]
  | (k, x) :: rest, a, v =>
    if a < k then (if v = default then (k, x) :: rest else (a, v) :: (k, x) :: rest)
    else if a = k then (if v = default then rest else (a, v) :: rest)
    else (k, x) :: cellSet default rest a v

/-- The canonical cells that a list names, the last entry for a key counting. -/
def cellsOf {α : Type} [DecidableEq α] (default : α) (l : List (Nat × α)) : List (Nat × α) :=
  l.foldl (fun m e => cellSet default m e.1 e.2) []

/-- The RAM byte at an address. -/
def readByte (m : List Host.Cell) (a : Nat) : Byte :=
  cellGet ramDefault m a

/-- Store a RAM byte. -/
def writeByte (m : List Host.Cell) (a : Nat) (v : Byte) : List Host.Cell :=
  cellSet ramDefault m a v

/-- `n` bytes from address `a` up, assembled little-endian (R78, R79). -/
def readBytes (m : List Host.Cell) (a : Nat) : Nat → Nat
  | 0 => 0
  | n + 1 => (readByte m a).toNat + 256 * readBytes m (a + 1) n

/-- Store the `n` low bytes of `v` from address `a` up, little-endian (R78, R79). -/
def writeBytes (m : List Host.Cell) (a : Nat) : Nat → Nat → List Host.Cell
  | 0, _ => m
  | n + 1, v => writeBytes (writeByte m a (BitVec.ofNat 8 v)) (a + 1) n (v / 256)

/-- The state's RAM byte at an address: what every statement about memory reads. -/
def State.byteAt (s : State) (a : Nat) : Byte :=
  readByte s.mem a

/-! ## The masked sub-word access unit (R68 to R73) -/

/-- R68: the low log2(len/8) bits cleared. -/
def addressMask (len : Nat) : Addr :=
  ~~~(BitVec.ofNat 64 (len / 8 - 1))

/-- R69: `len` low bits set. -/
def dataMask (len : Nat) : BitVec 64 :=
  BitVec.ofNat 64 (2 ^ len - 1)

/-- R70, the corrected expression (conflict C2): how far the field lies above bit 0 of the bus word. -/
def shiftFor (addr : Addr) (busLen dataLen : Nat) : Nat :=
  (addr &&& ~~~addressMask busLen &&& addressMask dataLen).toNat * 8

/-- R71: not truncated; the caller truncates. -/
def readMasked (addr : Addr) (busData : BitVec 64) (busLen dataLen : Nat) : Except Fault (BitVec 64) :=
  if legalWidth busLen && legalWidth dataLen then .ok (busData >>> shiftFor addr busLen dataLen)
  else .error .invalidWidth

/-- R72: a read-modify-write that preserves every bit outside the field. -/
def writeMasked (addr : Addr) (busData newData : BitVec 64) (busLen dataLen : Nat) : Except Fault (BitVec 64) :=
  if legalWidth busLen && legalWidth dataLen then
    let sh := shiftFor addr busLen dataLen
    .ok ((busData &&& ~~~(dataMask dataLen <<< sh)) ||| ((newData &&& dataMask dataLen) <<< sh))
  else .error .invalidWidth

/-! ## Devices (R66, R79) -/

/-- One device read at offset `off`, at the device's own width. -/
def deviceRead (r : Region) (off : Addr) (s : State) : BitVec 64 × State :=
  match r.device with
  | .ram => (BitVec.ofNat 64 (readBytes s.mem (r.base + off).toNat (r.width / 8)), s)
  | .peripheral n =>
    let answer := Config.peripheralRead n s.busTick (cellGet periphDefault s.periph n) off
    (answer.1, { s with periph := cellSet periphDefault s.periph n answer.2, busTick := s.busTick + 1 })

/-- One device write at offset `off`, at the device's own width. -/
def deviceWrite (r : Region) (off : Addr) (v : BitVec 64) (s : State) : State :=
  match r.device with
  | .ram => { s with mem := writeBytes s.mem (r.base + off).toNat (r.width / 8) v.toNat }
  | .peripheral n =>
    { s with
      periph := cellSet periphDefault s.periph n
        (Config.peripheralWrite n s.busTick (cellGet periphDefault s.periph n) off v)
      busTick := s.busTick + 1 }

/-- R66, R79: RAM calls every offset inside its region valid. -/
def deviceTryRead (r : Region) (off : Addr) (len : Nat) (s : State) : Bool :=
  match r.device with
  | .ram => true
  | .peripheral n => Config.peripheralTryRead n (cellGet periphDefault s.periph n) off len

/-- R66, R79. -/
def deviceTryWrite (r : Region) (off : Addr) (len : Nat) (s : State) : Bool :=
  match r.device with
  | .ram => true
  | .peripheral n => Config.peripheralTryWrite n (cellGet periphDefault s.periph n) off len

/-! ## The router (R62 to R67, R74 to R77) -/

/-- R62: both bounds inclusive. -/
def regionCovers (r : Region) (a : Addr) : Bool :=
  decide (r.base.toNat ≤ a.toNat) && decide (a.toNat ≤ r.limit.toNat)

/-- R65: by containment. In a well-formed table at most one region covers an address. -/
def lookup (m : AddressMap) (a : Addr) : Option Region :=
  m.find? (regionCovers · a)

/-- R67: a pure query. -/
def tryRead (addr : Addr) (len : Nat) (s : State) : Bool :=
  match lookup s.cfg.addressMap addr with
  | none => false
  | some r => deviceTryRead r (addr - r.base) len s

/-- R67: a pure query. -/
def tryWrite (addr : Addr) (len : Nat) (s : State) : Bool :=
  match lookup s.cfg.addressMap addr with
  | none => false
  | some r => deviceTryWrite r (addr - r.base) len s

/-- R74: one device read of the whole bus word; the value has `d` bits. -/
def busRead (addr : Addr) (d : Nat) (s : State) : Except Fault (BitVec 64 × State) :=
  match lookup s.cfg.addressMap addr with
  | none => .error .addressRangeMiss
  | some r =>
    if r.width < d then .error .widthExceedsDevice
    else
      let answer := deviceRead r ((addr &&& addressMask r.width) - r.base) s
      match readMasked addr answer.1 r.width d with
      | .error e => .error e
      | .ok v => .ok (v &&& dataMask d, answer.2)

/-- R75: a full-width write is one device write; a narrower one is a device read and a device write. -/
def busWrite (addr : Addr) (d : Nat) (v : BitVec 64) (s : State) : Except Fault State :=
  match lookup s.cfg.addressMap addr with
  | none => .error .addressRangeMiss
  | some r =>
    if r.width < d then .error .widthExceedsDevice
    else
      let off := (addr &&& addressMask r.width) - r.base
      if d = r.width then .ok (deviceWrite r off (v &&& dataMask r.width) s)
      else
        let answer := deviceRead r off s
        match writeMasked addr answer.1 v r.width d with
        | .error e => .error e
        | .ok merged => .ok (deviceWrite r off (merged &&& dataMask r.width) answer.2)

/-- R77 and R61 for a 32-bit read by the core. -/
def readWord (a : Word) (s : State) : Except Fault (Word × State) :=
  match busRead (a.setWidth 64) 32 s with
  | .error e => .error e
  | .ok (v, t) => .ok (v.setWidth 32, t)

/-- R77 and R61 for an 8-bit read by the core. -/
def readByteBus (a : Word) (s : State) : Except Fault (Byte × State) :=
  match busRead (a.setWidth 64) 8 s with
  | .error e => .error e
  | .ok (v, t) => .ok (v.setWidth 8, t)

/-- R77 and R61 for a 32-bit write by the core. -/
def writeWord (a v : Word) (s : State) : Except Fault State :=
  busWrite (a.setWidth 64) 32 (v.setWidth 64) s

/-- R77 and R61 for an 8-bit write by the core. -/
def writeByteBus (a : Word) (v : Byte) (s : State) : Except Fault State :=
  busWrite (a.setWidth 64) 8 (v.setWidth 64) s

/-! ## The register file and the program counter -/

/-- `x[i]` (R22): register 15 reads as the stored PC plus 8. -/
def State.readReg (s : State) (i : Reg) : Word :=
  if i = Reg.pc then s.regs.get i + 8 else s.regs.get i

/-- `x[i] <- v` (R23): a write of register 15 also sets jumped. -/
def State.writeReg (s : State) (i : Reg) (v : Word) : State :=
  { s with regs := s.regs.set i.val v i.isLt, jumped := s.jumped || decide (i = Reg.pc) }

/-- The stored PC, `R[15]` (R25). -/
def State.storedPc (s : State) : Word :=
  s.regs.get Reg.pc

/-- Where the next step fetches (R28). -/
def State.nextFetchAddr (s : State) : Word :=
  if s.jumped then s.storedPc else s.storedPc + 4

/-- `nextPC` (R26): a raw write, which does not set jumped. -/
def nextPC (s : State) : State :=
  { s with regs := s.regs.set 15 s.nextFetchAddr, jumped := false }

/-- The fetch of R82: 32 bits at the stored PC, the aligned word that contains it. -/
def fetch (s : State) : Except Fault (Word × State) :=
  readWord s.storedPc s

/-- `ROR32(v, k)` (R8). -/
def ror32 (v : Word) (k : Nat) : Word :=
  v.rotateRight k

/-! ## The coprocessor registry (R40 to R43) -/

/-- The value a bank registers under an id. -/
def bankGet (b : Bank) (id : BitVec 16) : Option Word :=
  match b with
  | [] => none
  | (k, v) :: rest => if k = id then some v else bankGet rest id

/-- Store a value under a registered id; the set of ids stays. -/
def bankSet (b : Bank) (id : BitVec 16) (v : Word) : Bank :=
  b.map fun e => if e.1 = id then (e.1, v) else e

/-- `getCReg(cp, id)` where the id is registered (R43), none where it is not (R42: never a default value). -/
def getCReg (cp : Fin 16) (id : BitVec 16) (s : State) : Option Word :=
  match s.coproc.get cp with
  | none => none
  | some b => bankGet b id

/-- `validCRegNumber(cp, id)` (R42). -/
def validCReg (cp : Fin 16) (id : BitVec 16) (s : State) : Bool :=
  (getCReg cp id s).isSome

/-- Replace the bank of a slot. -/
def setBank (cp : Fin 16) (b : Bank) (s : State) : State :=
  { s with coproc := s.coproc.set cp.val (some b) cp.isLt }

/-- `setCReg(cp, id, v)` (R43); no effect on an empty slot, where it is never called. -/
def setCReg (cp : Fin 16) (id : BitVec 16) (v : Word) (s : State) : State :=
  match s.coproc.get cp with
  | none => s
  | some b => setBank cp (bankSet b id v) s

/-! ## Exceptions and errors -/

/-- Entry of the Undefined exception (R302): PC <- 4 and nothing else (R303). -/
def undefinedEntry (s : State) : State :=
  s.writeReg Reg.pc 4

/-- The return from an exception the hardware has (R314): CPSR <- SPSR, all 32 bits, in every mode. -/
def restoreStatus (s : State) : State :=
  { s with cpsr := s.spsr }

/-- The outcome of one instruction. -/
abbrev Result : Type := Host.Outcome State Fault Refusal

/-- `raise Undefined` (R302): the instruction ends with outcome Next. -/
def raiseUndefined (s : State) : Result :=
  .next (undefinedEntry s)

/-- `raise Fatal(NotImplemented)` (R305): under every ERROR_POLICY. -/
def raiseNotImplemented (_ : State) : Result :=
  .fault .notImplemented

/-- `raise Fatal(UnsupportedEncoding)` under ERROR_POLICY (R306). -/
def raiseUnsupported (s : State) : Result :=
  match s.cfg.errorPolicy with
  | .abort => .fault .unsupportedEncoding
  | .carryOn => .next s

/-- Set the stop status (R46, R304); nothing else changes. -/
def setStop (status : StopStatus) (s : State) : State :=
  { s with stop := status }

/-- The coprocessor slots after a stop: the registered ids stay (R40), their values are free (R310). -/
def unspecifiedCoproc (e : StopEvent) (s : State) : Vector (Option Bank) 16 :=
  Vector.ofFn fun cp => (s.coproc.get cp).map fun b => b.map fun x => (x.1, Config.afterStopCReg e s cp x.1)

/-- The state after an event that stopped the core (R310, log 13): everything but the stop status, the halt input (R47), the
configuration (R44) and the set of registered coprocessor ids (R40) is free. -/
def unspecifiedRest (e : StopEvent) (s : State) : State :=
  let u := Config.afterStop e s
  { s with
    regs := u.regs
    jumped := u.jumped
    cpsr := u.cpsr
    spsr := u.spsr
    coproc := unspecifiedCoproc e s
    mem := cellsOf ramDefault u.mem
    periph := cellsOf periphDefault u.periph
    busTick := u.busTick }

/-- `raise Fatal` and `Refuse` as the host sees them: the stop status is set (R304) and the rest is unspecified (R310). -/
def stopCore (e : StopEvent) (status : StopStatus) (s : State) : State :=
  setStop status (unspecifiedRest e s)

/-- A next state, or the fault of a bus access. -/
def ofBus (r : Except Fault State) : Result :=
  match r with
  | .ok t => .next t
  | .error e => .fault e

end Sys2Proof.Machine
end

