-- ==== Sys2Proof/Machine/Flags.lean ====
section
/-! DEFINITION. The status registers' fields (spec/10_state.md R30 to R38) and the flag ALU
(spec/40_condition_alu_shifter.md R142 to R149, R158, R159). -/

namespace Sys2Proof.Machine

/-! ## Fields of a status register (R30) -/

def flagN (w : Word) : Bool := w.getLsbD 31
def flagZ (w : Word) : Bool := w.getLsbD 30
def flagC (w : Word) : Bool := w.getLsbD 29
def flagV (w : Word) : Bool := w.getLsbD 28
def flagQ (w : Word) : Bool := w.getLsbD 27
def fieldGE (w : Word) : BitVec 4 := w.extractLsb' 16 4
def flagI (w : Word) : Bool := w.getLsbD 7
def flagF (w : Word) : Bool := w.getLsbD 6
def flagT (w : Word) : Bool := w.getLsbD 5
def fieldM (w : Word) : BitVec 5 := w.extractLsb' 0 5

/-- The seven mode codes (R34). -/
inductive Mode where
  | usr | fiq | irq | svc | abt | und | sys
deriving DecidableEq, Repr

/-- The mode of a code; none for the other 25 values, which are stored all the same (R35). -/
def modeOfCode (m : BitVec 5) : Option Mode :=
  match m.toNat with
  | 0x10 => some .usr
  | 0x11 => some .fiq
  | 0x12 => some .irq
  | 0x13 => some .svc
  | 0x17 => some .abt
  | 0x1b => some .und
  | 0x1f => some .sys
  | _ => none

/-- Replace bits [31:28], N Z C V. -/
def withTop (w : Word) (f : BitVec 4) : Word :=
  (w &&& 0x0fffffff) ||| (f.setWidth 32 <<< 28)

/-- Four flags as bits [31:28] hold them. -/
def packFlags (n z c v : Bool) : BitVec 4 :=
  BitVec.ofBool n ++ BitVec.ofBool z ++ BitVec.ofBool c ++ BitVec.ofBool v

/-- Replace T, bit 5 (R33). -/
def withT (w : Word) (t : Bool) : Word :=
  if t then w ||| 0x20 else w &&& ~~~0x20

/-- Replace T and M, as reset does (R340). -/
def withResetMode (w : Word) : Word :=
  (w &&& ~~~0x3f) ||| 0x13

/-- The mask of the APSR view (R38). -/
def apsrMask : Word := 0xf80f0000

/-- The bits of `w` under `mask` taken from `v` (R38, R187). -/
def mergeMasked (w v mask : Word) : Word :=
  (w &&& ~~~mask) ||| (v &&& mask)

/-- The byte lanes an MSR field mask selects: bit 0 the c byte, bit 3 the f byte (R187). -/
def fieldMask (m : BitVec 4) : Word :=
  (if m.getLsbD 3 then 0xff000000 else 0) ||| (if m.getLsbD 2 then 0x00ff0000 else 0)
    ||| (if m.getLsbD 1 then 0x0000ff00 else 0) ||| (if m.getLsbD 0 then 0x000000ff else 0)

/-! ## The flag ALU -/

/-- R142. -/
def carryFrom (a b : Word) : Bool :=
  decide (2 ^ 32 ≤ a.toNat + b.toNat)

/-- R143: `a` the minuend, `b` the subtrahend. -/
def borrowFrom (a b : Word) : Bool :=
  decide (a.toNat < b.toNat)

/-- R144. -/
def overflowAdd (a b r : Word) : Bool :=
  a.getLsbD 31 == b.getLsbD 31 && r.getLsbD 31 != a.getLsbD 31

/-- R145. -/
def overflowSub (a b r : Word) : Bool :=
  a.getLsbD 31 != b.getLsbD 31 && r.getLsbD 31 != a.getLsbD 31

/-- A result with its C and V. -/
structure AluOut where
  r : Word
  c : Bool
  v : Bool
deriving DecidableEq, Repr

/-- R146. -/
def addFlags (a b : Word) : AluOut :=
  { r := a + b, c := carryFrom a b, v := overflowAdd a b (a + b) }

/-- R146: C is NOT borrow. -/
def subFlags (a b : Word) : AluOut :=
  { r := a - b, c := !borrowFrom a b, v := overflowSub a b (a - b) }

/-- R147, on the unbounded sum. -/
def adcFlags (a b : Word) (cin : Bool) : AluOut :=
  let t := a.toNat + b.toNat + cin.toNat
  { r := BitVec.ofNat 32 t, c := decide (2 ^ 32 ≤ t), v := overflowAdd a b (BitVec.ofNat 32 t) }

/-- R148, on the unbounded difference. -/
def sbcFlags (a b : Word) (cin : Bool) : AluOut :=
  let t : Int := (a.toNat : Int) - (b.toNat : Int) - (1 - (cin.toNat : Int))
  { r := BitVec.ofInt 32 t, c := decide (0 ≤ t), v := overflowSub a b (BitVec.ofInt 32 t) }

/-! ## Write-back (R158, R159) -/

/-- What the flag classes of R158 put into C and V. -/
inductive FlagClass where
  /-- logical: C from the shifter, V unaffected -/
  | logical (sco : Bool)
  /-- arithmetic and subtraction: C and V from the ALU -/
  | arithmetic (c v : Bool)
deriving DecidableEq, Repr

/-- The new CPSR of a flag-setting instruction with result `r` (R149, R158). -/
def setFlags (cpsr r : Word) : FlagClass → Word
  | .logical sco => withTop cpsr (packFlags (r.getLsbD 31) (r == 0) sco (flagV cpsr))
  | .arithmetic c v => withTop cpsr (packFlags (r.getLsbD 31) (r == 0) c v)

/-- The status part of `WriteBack` (R159): restore, flags, or nothing. -/
def writeBackStatus (sf : Bool) (rd : Reg) (r : Word) (k : FlagClass) (writesRd : Bool) (s : State) : State :=
  if sf && writesRd && decide (rd = Reg.pc) then restoreStatus s
  else if sf then { s with cpsr := setFlags s.cpsr r k }
  else s

/-- `WriteBack(r, C', V', logical, writes_rd)` (R159). -/
def writeBack (sf : Bool) (rd : Reg) (r : Word) (k : FlagClass) (writesRd : Bool) (s : State) : State :=
  let t := writeBackStatus sf rd r k writesRd s
  if writesRd then t.writeReg rd r else t

end Sys2Proof.Machine
end

