-- ==== Sys2Proof/Machine/Operands.lean ====
section
/-! DEFINITION. The condition test (spec/40_condition_alu_shifter.md R140, R141, R160), the shifter operand (R150 to R157),
the address forms of single and multiple transfers (spec/42_load_store_single.md R200, spec/43_load_store_multiple.md R220),
branch offsets (spec/30_encoding.md R116) and the composite coprocessor id (spec/10_state.md R41). -/

namespace Sys2Proof.Machine

/-- `CondPassed(c)` against a CPSR (R140, R141). -/
def condPassed (c : Cond) (cpsr : Word) : Bool :=
  let n := flagN cpsr
  let z := flagZ cpsr
  let cf := flagC cpsr
  let v := flagV cpsr
  match c with
  | .eq => z
  | .ne => !z
  | .cs => cf
  | .cc => !cf
  | .mi => n
  | .pl => !n
  | .vs => v
  | .vc => !v
  | .hi => cf && !z
  | .ls => !cf || z
  | .ge => n == v
  | .lt => n != v
  | .gt => !z && n == v
  | .le => z || n != v
  | .al => true

/-- Step 3 of the handler contract (R160): a failed condition ends the instruction with no state change. -/
def conditional (c : Cond) (s : State) (body : Result) : Result :=
  if condPassed c s.cpsr then body else .next s

/-- Step 1 of the handler contract for an unlisted instruction (R160, R119): under UNLISTED_INSTRUCTIONS = refuse it is
`Fatal(UnsupportedEncoding)` whatever its condition. -/
def unlisted (s : State) (body : Result) : Result :=
  match s.cfg.unlisted with
  | .refuse => raiseUnsupported s
  | .implement => body

/-! ## The shifter operand -/

/-- The operand `op2` and the shifter carry-out `sco`. -/
structure ShifterOut where
  op2 : Word
  sco : Bool
deriving DecidableEq, Repr

/-- The rotated immediate (R116). -/
def immValue (op : ImmOperand) : Word :=
  ror32 (op.imm8.setWidth 32) (2 * op.rot.toNat)

/-- R150. -/
def immOperand (op : ImmOperand) (s : State) : ShifterOut :=
  let op2 := immValue op
  { op2 := op2, sco := if op.rot = 0 then flagC s.cpsr else op2.getLsbD 31 }

/-- R151. -/
def shiftLsl (m : Word) (n : Nat) (c : Bool) : ShifterOut :=
  if n = 0 then { op2 := m, sco := c } else { op2 := m <<< n, sco := m.getLsbD (32 - n) }

/-- R152; `by32` is SHIFT_ZERO_IS_32. -/
def shiftLsr (m : Word) (n : Nat) (c by32 : Bool) : ShifterOut :=
  if n = 0 then
    if by32 then { op2 := 0, sco := m.getLsbD 31 } else { op2 := m, sco := c }
  else { op2 := m >>> n, sco := m.getLsbD (n - 1) }

/-- R153; `by32` is SHIFT_ZERO_IS_32. -/
def shiftAsr (m : Word) (n : Nat) (c by32 : Bool) : ShifterOut :=
  if n = 0 then
    if by32 then { op2 := if m.getLsbD 31 then 0xffffffff else 0, sco := m.getLsbD 31 } else { op2 := m, sco := c }
  else { op2 := m.sshiftRight n, sco := m.getLsbD (n - 1) }

/-- R154, and R155 for the amount 0: RRX. -/
def shiftRor (m : Word) (n : Nat) (c : Bool) : ShifterOut :=
  if n = 0 then { op2 := (BitVec.ofBool c).setWidth 32 <<< 31 ||| m >>> 1, sco := m.getLsbD 0 }
  else { op2 := ror32 m n, sco := m.getLsbD (n - 1) }

/-- The immediate-shift form (R151 to R155); register 15 reads with its bias (R157). -/
def shiftOperand (op : ShiftOperand) (s : State) : ShifterOut :=
  let m := s.readReg op.rm
  let n := op.amount.toNat
  let c := flagC s.cpsr
  match op.kind with
  | .lsl => shiftLsl m n c
  | .lsr => shiftLsr m n c s.cfg.shiftZeroIs32
  | .asr => shiftAsr m n c s.cfg.shiftZeroIs32
  | .ror => shiftRor m n c

/-! ## Addressing modes -/

/-- Addressing mode 2, resolved (R200). -/
structure Address where
  addr : Word
  writeback : Bool
  newBase : Word
deriving DecidableEq, Repr

/-- R200: with P = 0 the address is the base and the write-back happens whatever W is. -/
def address (m : LsOperand) (s : State) : Address :=
  let base := s.readReg m.rn
  let offset := m.imm12.setWidth 32
  let offAddr := if m.u then base + offset else base - offset
  if m.p then { addr := offAddr, writeback := m.w, newBase := offAddr }
  else { addr := base, writeback := true, newBase := offAddr }

/-- The combinations of a single transfer that the spec refuses: R208 (U2), then U3 under its policy. Which reason is given
where both apply (write-back with Rd = Rn = 15) is a DESIGN CHOICE (log 24): U2's. -/
def addressRefusal (m : LsOperand) (s : State) : Option Refusal :=
  let writeback := (address m s).writeback
  if writeback && decide (m.rd = m.rn) then some .writebackRdEqRn
  else if writeback && decide (m.rn = Reg.pc) && decide (s.cfg.pcOperands = .refuse) then some .baseIsPc
  else none

/-- `if writeback then x[Rn] <- new_base` (R201). -/
def baseUpdate (m : LsOperand) (a : Address) (s : State) : State :=
  if a.writeback then s.writeReg m.rn a.newBase else s

/-- All registers in ascending order. -/
def allRegs : List Reg :=
  [0, 1, 2, 3, 4, 5, 6, 7, 8, 9, 10, 11, 12, 13, 14, 15]

/-- The registers of a list, ascending (R116, R220). -/
def regList (list : BitVec 16) : List Reg :=
  allRegs.filter fun i => list.getLsbD i.val

/-- `len = 4 * popcount(register_list)` (R220). -/
def transferLength (list : BitVec 16) : Word :=
  BitVec.ofNat 32 (4 * (regList list).length)

/-- `start` of R220, by P and U. -/
def startAddress (m : LsmOperand) (s : State) : Word :=
  let base := s.readReg m.rn
  let len := transferLength m.list
  match m.p, m.u with
  | false, true => base
  | true, true => base + 4
  | false, false => base - len + 4
  | true, false => base - len

/-- `wb_value` of R220. -/
def multipleBase (m : LsmOperand) (s : State) : Word :=
  let base := s.readReg m.rn
  let len := transferLength m.list
  if m.u then base + len else base - len

/-- The combinations of a multiple transfer that the spec refuses: R225 (U4), then U3 under its policy. Which reason is given
where both apply (W = 1 and Rn = 15 in the list) is a DESIGN CHOICE (log 24): U4's. -/
def multipleRefusal (m : LsmOperand) (s : State) : Option Refusal :=
  if m.w && m.list.getLsbD m.rn.val then some .baseInList
  else if decide (m.rn = Reg.pc) && decide (s.cfg.pcOperands = .refuse) then some .baseIsPc
  else none

/-- `if W = 1 then x[Rn] <- wb_value` (R221, R222). -/
def multipleUpdate (m : LsmOperand) (wb : Word) (s : State) : State :=
  if m.w then s.writeReg m.rn wb else s

/-- `sext_24(signed_immed_24) << 2` (R116). -/
def branchOffset (offset : BitVec 24) : Word :=
  offset.signExtend 32 <<< 2

/-- The composite id (R41, R250), each field in its own nibble. -/
def compositeId (crn opcode1 crm opcode2 : BitVec 4) : BitVec 16 :=
  crn ++ opcode1 ++ crm ++ opcode2

/-- The id of MCR and MRC (R250). -/
def cpId (d : CpOperand) : BitVec 16 :=
  compositeId d.crn (d.opcode1.setWidth 4) d.crm (d.opcode2.setWidth 4)

/-- The id of CDP (R250): CRd is no part of it. -/
def cdpId (d : CdpOperand) : BitVec 16 :=
  compositeId d.crn d.opcode1 d.crm (d.opcode2.setWidth 4)

end Sys2Proof.Machine
end

