-- ==== Sys2Proof/Machine/Branch.lean ====
section
/-! DEFINITION. Branches (spec/44_branch.md R240 to R243). -/

namespace Sys2Proof.Machine

/-- A write of the PC by `x[15]` plus an offset (R240). -/
def branchBy (offset : Word) (s : State) : State :=
  s.writeReg Reg.pc (s.readReg Reg.pc + offset)

/-- The return address of BL and BLX into r14 (R241): the biased PC less 4. -/
def saveReturn (s : State) : State :=
  s.writeReg Reg.lr (s.readReg Reg.pc - 4)

/-- B (R240). -/
def execB (c : Cond) (offset : BitVec 24) (s : State) : Result :=
  conditional c s (.next (branchBy (branchOffset offset) s))

/-- BL (R241). -/
def execBl (c : Cond) (offset : BitVec 24) (s : State) : Result :=
  conditional c s (.next (branchBy (branchOffset offset) (saveReturn s)))

/-- BLX, immediate (R242): unconditional; sets T. -/
def execBlx (h : Bool) (offset : BitVec 24) (s : State) : Result :=
  let t := branchBy (branchOffset offset + (if h then 2 else 0)) (saveReturn s)
  .next { t with cpsr := withT t.cpsr true }

end Sys2Proof.Machine
end

