-- ==== Sys2Proof/Machine/Coprocessor.lean ====
section
/-! DEFINITION. CDP, MCR, MRC, and the unsupported encodings of sub-code 11
(spec/45_coprocessor_swi.md R250 to R258). -/

namespace Sys2Proof.Machine

/-- Condition first (R258), then the validity check: an unregistered coprocessor or id raises Undefined and does nothing
else (R251). `body` gets the registered value. -/
def coprocessorAccess (c : Cond) (cp : Fin 16) (id : BitVec 16) (s : State) (body : Word → State) : Result :=
  conditional c s (
    match getCReg cp id s with
    | none => raiseUndefined s
    | some v => .next (body v))

/-- CDP_EFFECT on one bank (R252): the identity by default, else the free function; the registered ids stay (R40). -/
def cdpBank (d : CdpOperand) (s : State) (b : Bank) : Bank :=
  match s.cfg.cdp with
  | .identity => b
  | .other => b.map fun e =>
      (e.1, Config.cdpValue d.cp d.opcode1 d.crd d.crn d.crm d.opcode2 b e.1)

/-- The effect of a CDP whose id is registered (R252). -/
def cdpEffect (d : CdpOperand) (s : State) : State :=
  match s.coproc.get d.cp with
  | none => s
  | some b => setBank d.cp (cdpBank d s b) s

/-- MRC_R15_FLAGS (R255). -/
def mrcFlags (s : State) (v : Word) : BitVec 4 :=
  match s.cfg.mrcFlags with
  | .coprocTop => v.extractLsb' 28 4
  | .merge => Config.mrcMerge s.spsr v

/-- CDP (R252). -/
def execCdp (c : Cond) (d : CdpOperand) (s : State) : Result :=
  coprocessorAccess c d.cp (cdpId d) s fun _ => cdpEffect d s

/-- MCR (R253). -/
def execMcr (c : Cond) (d : CpOperand) (s : State) : Result :=
  coprocessorAccess c d.cp (cpId d) s fun _ => setCReg d.cp (cpId d) (s.readReg d.rd) s

/-- MRC (R254); with Rd = 15 only N, Z, C, V change and the PC is not written (R255). -/
def execMrc (c : Cond) (d : CpOperand) (s : State) : Result :=
  coprocessorAccess c d.cp (cpId d) s fun v =>
    if d.rd = Reg.pc then { s with cpsr := withTop s.cpsr (mrcFlags s v) } else s.writeReg d.rd v

/-- LDC, STC (R256): an unsupported encoding whatever its condition. -/
def execLdcStc (_ : Cond) (_ _ _ _ _ : Bool) (_ : Reg) (_ : BitVec 4) (_ : Fin 16) (_ : BitVec 8) (s : State) :
    Result :=
  raiseUnsupported s

/-- SWI (R257): an unsupported encoding whatever its condition; the hardware has no SWI entry. -/
def execSwi (_ : Cond) (_ : BitVec 24) (s : State) : Result :=
  raiseUnsupported s

end Sys2Proof.Machine
end

