-- ==== Sys2Proof/Machine/DataProcessing.lean ====
section
/-! DEFINITION. The sixteen data-processing instructions, immediate and immediate-shift forms
(spec/41_data_processing.md R170 to R185). -/

namespace Sys2Proof.Machine

/-- An instruction of the logical class (R158): `r = f (x[Rn]) op2`, C from the shifter. -/
def dpLogical (c : Cond) (sf writesRd : Bool) (rd : Reg) (f : Word → Word → Word) (rn : Reg) (sh : ShifterOut)
    (s : State) : Result :=
  conditional c s (.next (writeBack sf rd (f (s.readReg rn) sh.op2) (.logical sh.sco) writesRd s))

/-- An instruction of the arithmetic class (R158): `f` gets `x[Rn]`, `op2` and CPSR.C at the start. -/
def dpArithmetic (c : Cond) (sf writesRd : Bool) (rd : Reg) (f : Word → Word → Bool → AluOut) (rn : Reg)
    (sh : ShifterOut) (s : State) : Result :=
  let out := f (s.readReg rn) sh.op2 (flagC s.cpsr)
  conditional c s (.next (writeBack sf rd out.r (.arithmetic out.c out.v) writesRd s))

/-! The function each instruction computes of `x[Rn]` and the shifter operand. -/

/-- R170, R178. -/
def aluAnd (a b : Word) : Word := a &&& b
/-- R171, R179. -/
def aluEor (a b : Word) : Word := a ^^^ b
/-- R182. -/
def aluOrr (a b : Word) : Word := a ||| b
/-- R183: Rn is not used. -/
def aluMov (_ b : Word) : Word := b
/-- R184. -/
def aluBic (a b : Word) : Word := a &&& ~~~b
/-- R185: Rn is not used. -/
def aluMvn (_ b : Word) : Word := ~~~b
/-- R172, R180. -/
def aluSub (a b : Word) (_ : Bool) : AluOut := subFlags a b
/-- R173: the shifter operand is the minuend. -/
def aluRsb (a b : Word) (_ : Bool) : AluOut := subFlags b a
/-- R174, R181. -/
def aluAdd (a b : Word) (_ : Bool) : AluOut := addFlags a b
/-- R175. -/
def aluAdc (a b : Word) (cin : Bool) : AluOut := adcFlags a b cin
/-- R176. -/
def aluSbc (a b : Word) (cin : Bool) : AluOut := sbcFlags a b cin
/-- R177: the shifter operand is the minuend. -/
def aluRsc (a b : Word) (cin : Bool) : AluOut := sbcFlags b a cin

/-- AND, immediate form (R170). -/
def execAndImm (c : Cond) (sf : Bool) (rn rd : Reg) (op : ImmOperand) (s : State) : Result :=
  dpLogical c sf true rd aluAnd rn (immOperand op s) s

/-- AND, immediate-shift form (R170). -/
def execAndShift (c : Cond) (sf : Bool) (rn rd : Reg) (op : ShiftOperand) (s : State) : Result :=
  dpLogical c sf true rd aluAnd rn (shiftOperand op s) s

/-- EOR, immediate form (R171; unlisted). -/
def execEorImm (c : Cond) (sf : Bool) (rn rd : Reg) (op : ImmOperand) (s : State) : Result :=
  unlisted s (dpLogical c sf true rd aluEor rn (immOperand op s) s)

/-- EOR, immediate-shift form (R171; unlisted). -/
def execEorShift (c : Cond) (sf : Bool) (rn rd : Reg) (op : ShiftOperand) (s : State) : Result :=
  unlisted s (dpLogical c sf true rd aluEor rn (shiftOperand op s) s)

/-- SUB, immediate form (R172). -/
def execSubImm (c : Cond) (sf : Bool) (rn rd : Reg) (op : ImmOperand) (s : State) : Result :=
  dpArithmetic c sf true rd aluSub rn (immOperand op s) s

/-- SUB, immediate-shift form (R172). -/
def execSubShift (c : Cond) (sf : Bool) (rn rd : Reg) (op : ShiftOperand) (s : State) : Result :=
  dpArithmetic c sf true rd aluSub rn (shiftOperand op s) s

/-- RSB, immediate form (R173). -/
def execRsbImm (c : Cond) (sf : Bool) (rn rd : Reg) (op : ImmOperand) (s : State) : Result :=
  dpArithmetic c sf true rd aluRsb rn (immOperand op s) s

/-- RSB, immediate-shift form (R173). -/
def execRsbShift (c : Cond) (sf : Bool) (rn rd : Reg) (op : ShiftOperand) (s : State) : Result :=
  dpArithmetic c sf true rd aluRsb rn (shiftOperand op s) s

/-- ADD, immediate form (R174). -/
def execAddImm (c : Cond) (sf : Bool) (rn rd : Reg) (op : ImmOperand) (s : State) : Result :=
  dpArithmetic c sf true rd aluAdd rn (immOperand op s) s

/-- ADD, immediate-shift form (R174). -/
def execAddShift (c : Cond) (sf : Bool) (rn rd : Reg) (op : ShiftOperand) (s : State) : Result :=
  dpArithmetic c sf true rd aluAdd rn (shiftOperand op s) s

/-- ADC, immediate form (R175). -/
def execAdcImm (c : Cond) (sf : Bool) (rn rd : Reg) (op : ImmOperand) (s : State) : Result :=
  dpArithmetic c sf true rd aluAdc rn (immOperand op s) s

/-- ADC, immediate-shift form (R175). -/
def execAdcShift (c : Cond) (sf : Bool) (rn rd : Reg) (op : ShiftOperand) (s : State) : Result :=
  dpArithmetic c sf true rd aluAdc rn (shiftOperand op s) s

/-- SBC, immediate form (R176). -/
def execSbcImm (c : Cond) (sf : Bool) (rn rd : Reg) (op : ImmOperand) (s : State) : Result :=
  dpArithmetic c sf true rd aluSbc rn (immOperand op s) s

/-- SBC, immediate-shift form (R176). -/
def execSbcShift (c : Cond) (sf : Bool) (rn rd : Reg) (op : ShiftOperand) (s : State) : Result :=
  dpArithmetic c sf true rd aluSbc rn (shiftOperand op s) s

/-- RSC, immediate form (R177). -/
def execRscImm (c : Cond) (sf : Bool) (rn rd : Reg) (op : ImmOperand) (s : State) : Result :=
  dpArithmetic c sf true rd aluRsc rn (immOperand op s) s

/-- RSC, immediate-shift form (R177). -/
def execRscShift (c : Cond) (sf : Bool) (rn rd : Reg) (op : ShiftOperand) (s : State) : Result :=
  dpArithmetic c sf true rd aluRsc rn (shiftOperand op s) s

/-- TST, immediate form (R178). -/
def execTstImm (c : Cond) (rn rd : Reg) (op : ImmOperand) (s : State) : Result :=
  dpLogical c true false rd aluAnd rn (immOperand op s) s

/-- TST, immediate-shift form (R178). -/
def execTstShift (c : Cond) (rn rd : Reg) (op : ShiftOperand) (s : State) : Result :=
  dpLogical c true false rd aluAnd rn (shiftOperand op s) s

/-- TEQ, immediate form (R179). -/
def execTeqImm (c : Cond) (rn rd : Reg) (op : ImmOperand) (s : State) : Result :=
  dpLogical c true false rd aluEor rn (immOperand op s) s

/-- TEQ, immediate-shift form (R179). -/
def execTeqShift (c : Cond) (rn rd : Reg) (op : ShiftOperand) (s : State) : Result :=
  dpLogical c true false rd aluEor rn (shiftOperand op s) s

/-- CMP, immediate form (R180). -/
def execCmpImm (c : Cond) (rn rd : Reg) (op : ImmOperand) (s : State) : Result :=
  dpArithmetic c true false rd aluSub rn (immOperand op s) s

/-- CMP, immediate-shift form (R180). -/
def execCmpShift (c : Cond) (rn rd : Reg) (op : ShiftOperand) (s : State) : Result :=
  dpArithmetic c true false rd aluSub rn (shiftOperand op s) s

/-- CMN, immediate form (R181; unlisted). -/
def execCmnImm (c : Cond) (rn rd : Reg) (op : ImmOperand) (s : State) : Result :=
  unlisted s (dpArithmetic c true false rd aluAdd rn (immOperand op s) s)

/-- CMN, immediate-shift form (R181; unlisted). -/
def execCmnShift (c : Cond) (rn rd : Reg) (op : ShiftOperand) (s : State) : Result :=
  unlisted s (dpArithmetic c true false rd aluAdd rn (shiftOperand op s) s)

/-- ORR, immediate form (R182). -/
def execOrrImm (c : Cond) (sf : Bool) (rn rd : Reg) (op : ImmOperand) (s : State) : Result :=
  dpLogical c sf true rd aluOrr rn (immOperand op s) s

/-- ORR, immediate-shift form (R182). -/
def execOrrShift (c : Cond) (sf : Bool) (rn rd : Reg) (op : ShiftOperand) (s : State) : Result :=
  dpLogical c sf true rd aluOrr rn (shiftOperand op s) s

/-- MOV, immediate form (R183). -/
def execMovImm (c : Cond) (sf : Bool) (rn rd : Reg) (op : ImmOperand) (s : State) : Result :=
  dpLogical c sf true rd aluMov rn (immOperand op s) s

/-- MOV, immediate-shift form (R183). -/
def execMovShift (c : Cond) (sf : Bool) (rn rd : Reg) (op : ShiftOperand) (s : State) : Result :=
  dpLogical c sf true rd aluMov rn (shiftOperand op s) s

/-- BIC, immediate form (R184). -/
def execBicImm (c : Cond) (sf : Bool) (rn rd : Reg) (op : ImmOperand) (s : State) : Result :=
  dpLogical c sf true rd aluBic rn (immOperand op s) s

/-- BIC, immediate-shift form (R184). -/
def execBicShift (c : Cond) (sf : Bool) (rn rd : Reg) (op : ShiftOperand) (s : State) : Result :=
  dpLogical c sf true rd aluBic rn (shiftOperand op s) s

/-- MVN, immediate form (R185). -/
def execMvnImm (c : Cond) (sf : Bool) (rn rd : Reg) (op : ImmOperand) (s : State) : Result :=
  dpLogical c sf true rd aluMvn rn (immOperand op s) s

/-- MVN, immediate-shift form (R185). -/
def execMvnShift (c : Cond) (sf : Bool) (rn rd : Reg) (op : ShiftOperand) (s : State) : Result :=
  dpLogical c sf true rd aluMvn rn (shiftOperand op s) s

end Sys2Proof.Machine
end

