-- ==== Sys2Proof/Machine/LoadStore.lean ====
section
/-! DEFINITION. Single load and store (spec/42_load_store_single.md R200 to R209). -/

namespace Sys2Proof.Machine

/-- The body of a single transfer after its condition passed: refused combinations first (R208, R313), then the memory
access and the register writes of `body`. -/
def singleTransfer (c : Cond) (m : LsOperand) (s : State) (body : Address → Except Fault State) : Result :=
  conditional c s (
    match addressRefusal m s with
    | some r => .refused r
    | none => ofBus (body (address m s)))

/-- The interworking write of R202 and R221: PC from bits [31:1], T from bit 0. -/
def writePcInterworking (v : Word) (s : State) : State :=
  let t := s.writeReg Reg.pc (v &&& 0xfffffffe)
  { t with cpsr := withT t.cpsr (v.getLsbD 0) }

/-- The destination write of LDR (R202). -/
def writeLoaded (rd : Reg) (v : Word) (s : State) : State :=
  if rd = Reg.pc then writePcInterworking v s else s.writeReg rd v

/-- The word LDR makes of the aligned word at `addr` (R81, R202). -/
def rotateLoaded (addr data : Word) : Word :=
  ror32 data (8 * (addr.toNat % 4))

/-- LDR (R202). -/
def execLdr (c : Cond) (m : LsOperand) (s : State) : Result :=
  singleTransfer c m s fun a =>
    match readWord a.addr s with
    | .error e => .error e
    | .ok (data, t) => .ok (writeLoaded m.rd (rotateLoaded a.addr data) (baseUpdate m a t))

/-- STR (R203): the stored value is read before any write. -/
def execStr (c : Cond) (m : LsOperand) (s : State) : Result :=
  singleTransfer c m s fun a =>
    match writeWord a.addr (s.readReg m.rd) s with
    | .error e => .error e
    | .ok t => .ok (baseUpdate m a t)

/-- LDRB (R204; unlisted): zero-extended, no rotation, no T write. -/
def execLdrb (c : Cond) (m : LsOperand) (s : State) : Result :=
  unlisted s (singleTransfer c m s fun a =>
    match readByteBus a.addr s with
    | .error e => .error e
    | .ok (v, t) => .ok ((baseUpdate m a t).writeReg m.rd (v.setWidth 32)))

/-- STRB (R205; unlisted). -/
def execStrb (c : Cond) (m : LsOperand) (s : State) : Result :=
  unlisted s (singleTransfer c m s fun a =>
    match writeByteBus a.addr ((s.readReg m.rd).setWidth 8) s with
    | .error e => .error e
    | .ok t => .ok (baseUpdate m a t))

/-- Register offset and scaled register offset (R206): whatever the condition. -/
def execLsRegisterOffset (_ : Cond) (_ _ _ _ _ : Bool) (_ _ : Reg) (_ : ShiftOperand) (s : State) : Result :=
  raiseNotImplemented s

end Sys2Proof.Machine
end

