-- ==== Sys2Proof/Machine/LoadStoreMultiple.lean ====
section
/-! DEFINITION. Load and store multiple (spec/43_load_store_multiple.md R220 to R226). -/

namespace Sys2Proof.Machine

/-- What the transfers of an LDM leave: the value loaded for register 15, if it is in the list, and the state. -/
structure Loaded where
  pcValue : Option Word
  state : State

/-- The loop of R221: the registers of a list, ascending, from address `addr` up by 4. Register 15 is kept for last. -/
def loadList : List Reg → Word → Loaded → Except Fault Loaded
  | [], _, acc => .ok acc
  | i :: rest, addr, acc =>
    match readWord addr acc.state with
    | .error e => .error e
    | .ok (v, t) =>
      if i = Reg.pc then loadList rest (addr + 4) { pcValue := some v, state := t }
      else loadList rest (addr + 4) { acc with state := t.writeReg i v }

/-- The loop of R222. -/
def storeList : List Reg → Word → State → Except Fault State
  | [], _, s => .ok s
  | i :: rest, addr, s =>
    match writeWord addr (s.readReg i) s with
    | .error e => .error e
    | .ok t => storeList rest (addr + 4) t

/-- The body of a multiple transfer after its condition passed: refused combinations first (R225, R313). -/
def multipleTransfer (c : Cond) (m : LsmOperand) (s : State) (body : Except Fault State) : Result :=
  conditional c s (
    match multipleRefusal m s with
    | some r => .refused r
    | none => ofBus body)

/-- The end of R221: base write-back, then the PC and T. -/
def finishLoad (m : LsmOperand) (wb : Word) (l : Loaded) : State :=
  let t := multipleUpdate m wb l.state
  match l.pcValue with
  | none => t
  | some v => writePcInterworking v t

/-- LDM (R221). -/
def execLdm (c : Cond) (m : LsmOperand) (s : State) : Result :=
  multipleTransfer c m s (
    match loadList (regList m.list) (startAddress m s) { pcValue := none, state := s } with
    | .error e => .error e
    | .ok l => .ok (finishLoad m (multipleBase m s) l))

/-- STM (R222). -/
def execStm (c : Cond) (m : LsmOperand) (s : State) : Result :=
  multipleTransfer c m s (
    match storeList (regList m.list) (startAddress m s) s with
    | .error e => .error e
    | .ok t => .ok (multipleUpdate m (multipleBase m s) t))

/-- LDM and STM with the S bit (R223): an unsupported encoding whatever its condition. -/
def execLsmSBit (_ : Cond) (_ : Bool) (_ : LsmOperand) (s : State) : Result :=
  raiseUnsupported s

end Sys2Proof.Machine
end

