-- ==== Sys2Proof/Machine/Spaces.lean ====
section
/-! DEFINITION. The unimplemented and undefined encoding spaces
(spec/46_unimplemented_and_undefined_spaces.md R270 to R272). -/

namespace Sys2Proof.Machine

/-- NV words other than BLX (R272): the Undefined exception. -/
def execUndefinedNv (s : State) : Result :=
  raiseUndefined s

/-- Register-specified shift (R270): whatever the opcode, the S bit and the condition. -/
def execDpRegisterShift (_ : Cond) (_ : BitVec 4) (_ : Bool) (_ _ _ : Reg) (_ : ShiftKind) (_ : Reg) (s : State) :
    Result :=
  raiseNotImplemented s

/-- Multiply and extended load/store (R271): whatever the condition. -/
def execMultiplyExtendedSpace (_ : Cond) (s : State) : Result :=
  raiseNotImplemented s

end Sys2Proof.Machine
end

