-- ==== Sys2Proof/Machine/StatusRegister.lean ====
section
/-! DEFINITION. MRS, MSR and the empty slot of their space (spec/41_data_processing.md R186 to R189). No privilege check
exists (spec/60_exceptions.md R317). -/

namespace Sys2Proof.Machine

/-- CPSR, or SPSR where R = 1 (R186). -/
def statusRead (r : Bool) (s : State) : Word :=
  if r then s.spsr else s.cpsr

/-- The masked write of R187 into CPSR, or into SPSR where R = 1. -/
def statusWrite (r : Bool) (mask : BitVec 4) (operand : Word) (s : State) : State :=
  if r then { s with spsr := mergeMasked s.spsr operand (fieldMask mask) }
  else { s with cpsr := mergeMasked s.cpsr operand (fieldMask mask) }

/-- MRS (R186; unlisted). Rd = 15 is U9 (log 11). -/
def execMrs (c : Cond) (r : Bool) (rd : Reg) (s : State) : Result :=
  unlisted s (conditional c s (
    if decide (rd = Reg.pc) && decide (s.cfg.pcOperands = .refuse) then .refused .mrsPc
    else .next (s.writeReg rd (statusRead r s))))

/-- MSR, register form (R188). -/
def execMsrReg (c : Cond) (r : Bool) (mask : BitVec 4) (rm : Reg) (s : State) : Result :=
  conditional c s (.next (statusWrite r mask (s.readReg rm) s))

/-- MSR, immediate form (R187). -/
def execMsrImm (c : Cond) (r : Bool) (mask : BitVec 4) (op : ImmOperand) (s : State) : Result :=
  conditional c s (.next (statusWrite r mask (immValue op) s))

/-- The empty slot (R189): an unsupported encoding whatever its condition. -/
def execDpImmediateEmptySlot (_ : Cond) (s : State) : Result :=
  raiseUnsupported s

end Sys2Proof.Machine
end

