-- ==== Sys2Proof/Machine/Dispatch.lean ====
section
/-! DEFINITION. One arm per constructor of Instr. -/

namespace Sys2Proof.Machine

def exec (i : Instr) (s : State) : Host.Outcome State Fault Refusal :=
  match i with
  | .blx h offset => Sys2Proof.Machine.execBlx h offset s
  | .undefinedNv => Sys2Proof.Machine.execUndefinedNv s
  | .dpRegisterShift c opcode sf rn rd rs kind rm => Sys2Proof.Machine.execDpRegisterShift c opcode sf rn rd rs kind rm s
  | .multiplyExtendedSpace c => Sys2Proof.Machine.execMultiplyExtendedSpace c s
  | .mrs c r rd => Sys2Proof.Machine.execMrs c r rd s
  | .msrReg c r mask rm => Sys2Proof.Machine.execMsrReg c r mask rm s
  | .msrImm c r mask op => Sys2Proof.Machine.execMsrImm c r mask op s
  | .dpImmediateEmptySlot c => Sys2Proof.Machine.execDpImmediateEmptySlot c s
  | .andImm c sf rn rd op => Sys2Proof.Machine.execAndImm c sf rn rd op s
  | .andShift c sf rn rd op => Sys2Proof.Machine.execAndShift c sf rn rd op s
  | .eorImm c sf rn rd op => Sys2Proof.Machine.execEorImm c sf rn rd op s
  | .eorShift c sf rn rd op => Sys2Proof.Machine.execEorShift c sf rn rd op s
  | .subImm c sf rn rd op => Sys2Proof.Machine.execSubImm c sf rn rd op s
  | .subShift c sf rn rd op => Sys2Proof.Machine.execSubShift c sf rn rd op s
  | .rsbImm c sf rn rd op => Sys2Proof.Machine.execRsbImm c sf rn rd op s
  | .rsbShift c sf rn rd op => Sys2Proof.Machine.execRsbShift c sf rn rd op s
  | .addImm c sf rn rd op => Sys2Proof.Machine.execAddImm c sf rn rd op s
  | .addShift c sf rn rd op => Sys2Proof.Machine.execAddShift c sf rn rd op s
  | .adcImm c sf rn rd op => Sys2Proof.Machine.execAdcImm c sf rn rd op s
  | .adcShift c sf rn rd op => Sys2Proof.Machine.execAdcShift c sf rn rd op s
  | .sbcImm c sf rn rd op => Sys2Proof.Machine.execSbcImm c sf rn rd op s
  | .sbcShift c sf rn rd op => Sys2Proof.Machine.execSbcShift c sf rn rd op s
  | .rscImm c sf rn rd op => Sys2Proof.Machine.execRscImm c sf rn rd op s
  | .rscShift c sf rn rd op => Sys2Proof.Machine.execRscShift c sf rn rd op s
  | .tstImm c rn rd op => Sys2Proof.Machine.execTstImm c rn rd op s
  | .tstShift c rn rd op => Sys2Proof.Machine.execTstShift c rn rd op s
  | .teqImm c rn rd op => Sys2Proof.Machine.execTeqImm c rn rd op s
  | .teqShift c rn rd op => Sys2Proof.Machine.execTeqShift c rn rd op s
  | .cmpImm c rn rd op => Sys2Proof.Machine.execCmpImm c rn rd op s
  | .cmpShift c rn rd op => Sys2Proof.Machine.execCmpShift c rn rd op s
  | .cmnImm c rn rd op => Sys2Proof.Machine.execCmnImm c rn rd op s
  | .cmnShift c rn rd op => Sys2Proof.Machine.execCmnShift c rn rd op s
  | .orrImm c sf rn rd op => Sys2Proof.Machine.execOrrImm c sf rn rd op s
  | .orrShift c sf rn rd op => Sys2Proof.Machine.execOrrShift c sf rn rd op s
  | .movImm c sf rn rd op => Sys2Proof.Machine.execMovImm c sf rn rd op s
  | .movShift c sf rn rd op => Sys2Proof.Machine.execMovShift c sf rn rd op s
  | .bicImm c sf rn rd op => Sys2Proof.Machine.execBicImm c sf rn rd op s
  | .bicShift c sf rn rd op => Sys2Proof.Machine.execBicShift c sf rn rd op s
  | .mvnImm c sf rn rd op => Sys2Proof.Machine.execMvnImm c sf rn rd op s
  | .mvnShift c sf rn rd op => Sys2Proof.Machine.execMvnShift c sf rn rd op s
  | .ldr c m => Sys2Proof.Machine.execLdr c m s
  | .str c m => Sys2Proof.Machine.execStr c m s
  | .ldrb c m => Sys2Proof.Machine.execLdrb c m s
  | .strb c m => Sys2Proof.Machine.execStrb c m s
  | .lsRegisterOffset c p u b w l rn rd op => Sys2Proof.Machine.execLsRegisterOffset c p u b w l rn rd op s
  | .ldm c m => Sys2Proof.Machine.execLdm c m s
  | .stm c m => Sys2Proof.Machine.execStm c m s
  | .lsmSBit c l m => Sys2Proof.Machine.execLsmSBit c l m s
  | .b c offset => Sys2Proof.Machine.execB c offset s
  | .bl c offset => Sys2Proof.Machine.execBl c offset s
  | .ldcStc c p u n w l rn crd cp offset8 => Sys2Proof.Machine.execLdcStc c p u n w l rn crd cp offset8 s
  | .cdp c d => Sys2Proof.Machine.execCdp c d s
  | .mcr c d => Sys2Proof.Machine.execMcr c d s
  | .mrc c d => Sys2Proof.Machine.execMrc c d s
  | .swi c number => Sys2Proof.Machine.execSwi c number s

end Sys2Proof.Machine
end

