-- ==== Sys2Proof/Machine/Step.lean ====
section
/-! DEFINITION. One step of the core (spec/60_exceptions.md R320), and where a test places the next instruction. -/

namespace Sys2Proof.Machine

/-- The step after the halt test: `nextPC`, the Thumb check, the fetch, the decode, the instruction (R320, R313). -/
def stepRunning (s : State) : Host.Outcome State Fault Refusal :=
  let t := nextPC s
  if flagT t.cpsr && decide (t.cfg.thumbPolicy = .refuse) then .fault .thumbState
  else
    match fetch t with
    | .error e => .fault e
    | .ok (w, u) => exec (decode w) u

/-- R320. A core that is not running does nothing (R46); a halt request only sets the stop status (R319). -/
def step (s : State) : Host.Outcome State Fault Refusal :=
  match s.stop with
  | .running => if s.haltReq then .next { s with stop := .halted } else stepRunning s
  | .halted | .stoppedFault _ | .stoppedRefusal _ => .next s

/-- `s` with the instruction `w` (its bits from `nbits` up 0) stored as four RAM bytes in the aligned word the next step
fetches (R28, R82), and nothing else changed. The next step runs it where `s` is running, no halt is requested, T is
clear or ignored, and RAM of width 32 or 64 covers that word, as `State.reset` has it (log 16). -/
def State.withFetchWord (s : State) (nbits w : Nat) : State :=
  { s with mem := writeBytes s.mem (s.nextFetchAddr.toNat / 4 * 4) 4 (w % 2 ^ nbits) }

end Sys2Proof.Machine
end

