-- ==== Sys2Proof/Machine/HostSurface.lean ====
section
/-! DEFINITION. The host surface (spec/70_reset_and_hazards.md R340, R342, R344): what the host does between steps. -/

namespace Sys2Proof.Machine

/-- `getReg(i)` (R344); none for an index outside 0 to 15 (U11). -/
def hostGetReg (i : Nat) (s : State) : Option Word :=
  if h : i < 16 then some (s.readReg ⟨i, h⟩) else none

/-- `setReg(i, v)` (R344), the value reduced modulo 2^32 (R23); none for an index outside 0 to 15 (U11). -/
def hostSetReg (i v : Nat) (s : State) : Option State :=
  if h : i < 16 then some (s.writeReg ⟨i, h⟩ (BitVec.ofNat 32 v)) else none

/-- `getCPSR()` (R37). -/
def hostGetCpsr (s : State) : Word := s.cpsr

/-- `setCPSR(v)` (R37): all 32 bits. -/
def hostSetCpsr (v : Word) (s : State) : State := { s with cpsr := v }

/-- `getSPSR()` (R37). -/
def hostGetSpsr (s : State) : Word := s.spsr

/-- `setSPSR(v)` (R37): all 32 bits. -/
def hostSetSpsr (v : Word) (s : State) : State := { s with spsr := v }

/-- `getAPSR()` (R38). -/
def hostGetApsr (s : State) : Word := s.cpsr &&& apsrMask

/-- `setAPSR(v)` (R38). -/
def hostSetApsr (v : Word) (s : State) : State := { s with cpsr := mergeMasked s.cpsr v apsrMask }

/-- `reset()` (R340): M, T, the PC by an ordinary write, the stop status; nothing else. -/
def hostReset (s : State) : State :=
  { ({ s with cpsr := withResetMode s.cpsr } : State).writeReg Reg.pc 0 with stop := .running }

/-- `undefinedEntry()` (R342): the same routine the core uses. -/
def hostUndefinedEntry (s : State) : State := undefinedEntry s

/-- `nextPC()` (R344). -/
def hostNextPC (s : State) : State := nextPC s

/-- Raise or withdraw the halt request (R47, R319). -/
def hostHalt (request : Bool) (s : State) : State := { s with haltReq := request }

/-- What the host gets from a bus access, the value or the Fatal raised, and the state the access leaves. -/
abbrev HostAnswer (α : Type) : Type := Except Fault α × State

/-- The bus access `e` by the host from state `s`, with the router's answer `r`: a Fatal stops the core (R304, R310). DESIGN
CHOICE (log 26): it does so whatever the stop status was, `halted` among them; the spec gives no order between R304 and
R319. -/
def hostAccess {α : Type} (e : StopEvent) (s : State) (r : Except Fault (α × State)) : HostAnswer α :=
  match r with
  | .ok (v, t) => (.ok v, t)
  | .error k => (.error k, stopCore e (.stoppedFault k) s)

/-- The router's `read8/16/32/64` (R74, R344), by width in bits. -/
def hostRead (addr : Addr) (width : Nat) (s : State) : HostAnswer (BitVec 64) :=
  hostAccess (.read addr width) s (busRead addr width s)

/-- The router's `write8/16/32/64` (R75, R83), by width in bits. -/
def hostWrite (addr : Addr) (width : Nat) (v : BitVec 64) (s : State) : HostAnswer Unit :=
  hostAccess (.write addr width v) s ((busWrite addr width v s).map fun t => ((), t))

/-- `write8` (R77, R344). -/
def hostWrite8 (addr : Addr) (v : BitVec 8) (s : State) : HostAnswer Unit := hostWrite addr 8 (v.setWidth 64) s

/-- `write32` (R77, R344). -/
def hostWrite32 (addr : Addr) (v : BitVec 32) (s : State) : HostAnswer Unit := hostWrite addr 32 (v.setWidth 64) s

/-- `write64` (R77, R344). -/
def hostWrite64 (addr : Addr) (v : BitVec 64) (s : State) : HostAnswer Unit := hostWrite addr 64 v s

/-- Construction (R344): the device table, the banks and the values the spec leaves open; none where the table or a bank
is ill formed (R63, U13). The result has not been reset: `hostReset` does that. -/
def hostConstruct (cfg : Config) (coproc : Vector (Option Bank) 16) (regs : Vector Word 16) (cpsr spsr : Word) :
    Option State :=
  if cfg.wf && coprocWf coproc then
    some { regs := regs, jumped := false, cpsr := cpsr, spsr := spsr, coproc := coproc, mem := [], periph := [],
           busTick := 0, stop := .running, haltReq := false, cfg := cfg }
  else none

/-- `Step()` as the host sees it (R320, R304): a Fatal or Refuse sets the stop status, and the rest of the
state is then unspecified: a free value (R310, log 13). -/
def hostStep (s : State) : State :=
  match step s with
  | .next t => t
  | .fault k => stopCore .step (.stoppedFault k) s
  | .refused r => stopCore .step (.stoppedRefusal r) s

/-- At most `n` steps of `Run()` (R320): it ends when the stop status is no longer running. -/
def hostRun : Nat → State → State
  | 0, s => s
  | n + 1, s => if s.stop = .running then hostRun n (hostStep s) else s

end Sys2Proof.Machine
end

