-- ==== Sys2Proof/Safety.lean ====
section
/-! DEFINITION. What a safe step and a safe run are, and the invariant that claims about steps use. -/

namespace Sys2Proof.Machine

/-- A step that neither faults nor is refused. -/
def SafeStep (s : State) : Prop :=
  ∃ t, step s = .next t

/-- `n` steps, none of which faults or is refused. -/
def SafeRun : Nat → State → Prop
  | 0, _ => True
  | n + 1, s => ∃ t, step s = .next t ∧ SafeRun n t

/-- The registered ids of every slot; none for an empty slot (R40). -/
def registeredIds (s : State) : List (Option (List (BitVec 16))) :=
  s.coproc.toList.map fun b => match b with
    | none => none
    | some b => some (Bank.ids b)

/-- The invariant of the state: memory and device states in canonical form, the device table well formed (R63, R64), every
coprocessor bank a finite map (R40). -/
def WfState (s : State) : Prop :=
  Memory.wf s.mem = true ∧ cellsWf periphDefault s.periph = true ∧ s.cfg.wf = true ∧ coprocWf s.coproc = true

/-- The core will execute an instruction at its next step: it is running, no halt is requested, and the Thumb check of
R320 passes. -/
def Ready (s : State) : Prop :=
  s.stop = .running ∧ s.haltReq = false ∧ (flagT s.cpsr = false ∨ s.cfg.thumbPolicy = .armDecode)

/-- RAM of width 32 or 64 covers the aligned word that contains `a`: 32-bit accesses there succeed (R76, R79). -/
def RamWordAt (a : Word) (s : State) : Prop :=
  ∃ r, lookup s.cfg.addressMap (a.setWidth 64) = some r ∧ r.device = .ram ∧ r.wf = true ∧ 32 ≤ r.width

/-- RAM covers the byte at `a`. -/
def RamByteAt (a : Word) (s : State) : Prop :=
  ∃ r, lookup s.cfg.addressMap (a.setWidth 64) = some r ∧ r.device = .ram ∧ r.wf = true

end Sys2Proof.Machine
end

