-- ==== Sys2Proof/Certificates/Slice0/Obligations.lean ====
section
/-! DEFINITION. The statements for the provers. Each docstring names the rules of spec/ it formalises and the log entry of
every choice of the model it rests on. -/

/-! ## Words the statements share -/

namespace Sys2Proof.Machine

/-- Whether an exact signed result lies outside the 32-bit range (R146). -/
def signedOverflow (exact : Int) : Bool :=
  decide (exact < -2 ^ 31 ∨ 2 ^ 31 ≤ exact)

/-- `t` is `s` but for the registers, jumped and CPSR: memory, SPSR, the coprocessors, the devices, the stop status, the
halt input and the configuration are unchanged. -/
def OnlyRegsAndCpsr (s t : State) : Prop :=
  t = { s with regs := t.regs, jumped := t.jumped, cpsr := t.cpsr }

/-- What a data-processing instruction leaves (R159): the result in Rd and nothing in any other register; jumped set
exactly by a write of register 15; CPSR as R159 says; everything else unchanged. `cOut` and `vOut` are the new C and V. -/
structure DpPost (sf writesRd : Bool) (rd : Reg) (r : Word) (cOut vOut : Bool) (s t : State) : Prop where
  result : writesRd = true → t.regs.get rd = r
  otherRegs : ∀ i, ¬(writesRd = true ∧ i = rd) → t.regs.get i = s.regs.get i
  jump : t.jumped = (s.jumped || (writesRd && decide (rd = Reg.pc)))
  flagsKept : sf = false → t.cpsr = s.cpsr
  restored : sf = true → writesRd = true → rd = Reg.pc → t.cpsr = s.spsr
  flagsSet : sf = true → ¬(writesRd = true ∧ rd = Reg.pc) →
    flagN t.cpsr = r.getLsbD 31 ∧ flagZ t.cpsr = decide (r = 0) ∧ flagC t.cpsr = cOut ∧ flagV t.cpsr = vOut ∧
      ∀ k, k < 28 → t.cpsr.getLsbD k = s.cpsr.getLsbD k
  others : OnlyRegsAndCpsr s t

/-- The instruction completes with `DpPost`. -/
def DpRuns (i : Instr) (sf writesRd : Bool) (rd : Reg) (r : Word) (cOut vOut : Bool) (s : State) : Prop :=
  ∃ t, exec i s = .next t ∧ DpPost sf writesRd rd r cOut vOut s t

/-- The addressing form writes the base back (R200). -/
abbrev WritesBack (m : LsOperand) : Prop :=
  m.p = false ∨ m.w = true

/-- A single transfer to which the spec gives a meaning: not R208, and not U3 where U3 is refused. -/
def SingleDefined (m : LsOperand) (s : State) : Prop :=
  ¬(WritesBack m ∧ m.rd = m.rn) ∧ ¬(WritesBack m ∧ m.rn = Reg.pc ∧ s.cfg.pcOperands = .refuse)

/-- A multiple transfer to which the spec gives a meaning: not R225, and not U3 where U3 is refused. -/
def MultipleDefined (m : LsmOperand) (s : State) : Prop :=
  ¬(m.w = true ∧ m.list.getLsbD m.rn.val = true) ∧ ¬(m.rn = Reg.pc ∧ s.cfg.pcOperands = .refuse)

/-- `n` word reads at consecutive word addresses, through any device, in order (R221). -/
def readSeq : Nat → Word → State → Except Fault (List Word × State)
  | 0, _, s => .ok ([], s)
  | n + 1, a, s =>
    match readWord a s with
    | .error e => .error e
    | .ok (v, t) =>
      match readSeq n (a + 4) t with
      | .error e => .error e
      | .ok (vs, u) => .ok (v :: vs, u)

/-- Word writes at consecutive word addresses, to any device, in order (R222). -/
def writeSeq : List Word → Word → State → Except Fault State
  | [], _, s => .ok s
  | v :: vs, a, s =>
    match writeWord a v s with
    | .error e => .error e
    | .ok t => writeSeq vs (a + 4) t

/-- The aligned address of the word that contains `a` (R80). -/
def alignedWord (a : Word) : Nat :=
  a.toNat / 4 * 4

/-- The k-th transfer's address (R220). -/
def transferAddress (m : LsmOperand) (s : State) (k : Nat) : Word :=
  startAddress m s + 4 * BitVec.ofNat 32 k

/-- The word that the four RAM bytes of the aligned word containing `a` make (R78, R80). -/
def ramWord (a : Word) (s : State) : Word :=
  wordOfBytes (s.byteAt (alignedWord a)) (s.byteAt (alignedWord a + 1)) (s.byteAt (alignedWord a + 2))
    (s.byteAt (alignedWord a + 3))

/-- What LDR leaves (R202): `data` is the aligned word, `u` the state after the device read. -/
structure LdrPost (m : LsOperand) (data : Word) (s u t : State) : Prop where
  value : m.rd ≠ Reg.pc → t.regs.get m.rd = data.rotateRight (8 * ((address m s).addr.toNat % 4)) ∧ t.cpsr = s.cpsr
  jump : m.rd = Reg.pc →
    t.regs.get Reg.pc = data.rotateRight (8 * ((address m s).addr.toNat % 4)) &&& 0xfffffffe ∧
      flagT t.cpsr = (data.rotateRight (8 * ((address m s).addr.toNat % 4))).getLsbD 0 ∧
      ∀ k, k ≠ 5 → t.cpsr.getLsbD k = s.cpsr.getLsbD k
  base : WritesBack m → t.regs.get m.rn = (address m s).newBase
  otherRegs : ∀ i, i ≠ m.rd → ¬(WritesBack m ∧ i = m.rn) → t.regs.get i = s.regs.get i
  jumped : t.jumped = (s.jumped || decide (m.rd = Reg.pc ∨ (WritesBack m ∧ m.rn = Reg.pc)))
  others : t = { s with regs := t.regs, jumped := t.jumped, cpsr := t.cpsr, periph := u.periph, busTick := u.busTick }

/-- What LDRB leaves (R204): `data` is the byte, `u` the state after the device read. -/
structure LdrbPost (m : LsOperand) (data : Byte) (s u t : State) : Prop where
  value : (t.regs.get m.rd).toNat = data.toNat
  base : WritesBack m → t.regs.get m.rn = (address m s).newBase
  otherRegs : ∀ i, i ≠ m.rd → ¬(WritesBack m ∧ i = m.rn) → t.regs.get i = s.regs.get i
  jumped : t.jumped = (s.jumped || decide (m.rd = Reg.pc ∨ (WritesBack m ∧ m.rn = Reg.pc)))
  others : t = { s with regs := t.regs, jumped := t.jumped, periph := u.periph, busTick := u.busTick }

/-- What LDM leaves (R221): `vs` the words read in order, `u` the state after the reads. -/
structure LdmPost (m : LsmOperand) (vs : List Word) (s u t : State) : Prop where
  count : vs.length = (regList m.list).length
  values : ∀ (k : Nat) (i : Reg) (v : Word), (regList m.list)[k]? = some i → vs[k]? = some v → i ≠ Reg.pc →
    t.regs.get i = v
  pcValue : ∀ (k : Nat) (v : Word), (regList m.list)[k]? = some Reg.pc → vs[k]? = some v →
    t.regs.get Reg.pc = v &&& 0xfffffffe ∧ flagT t.cpsr = v.getLsbD 0
  base : m.w = true → ¬(m.rn = Reg.pc ∧ m.list.getLsbD 15 = true) → t.regs.get m.rn = multipleBase m s
  otherRegs : ∀ i : Reg, m.list.getLsbD i.val = false → ¬(m.w = true ∧ i = m.rn) → t.regs.get i = s.regs.get i
  statusKept : m.list.getLsbD 15 = false → t.cpsr = s.cpsr
  statusBits : ∀ k, k ≠ 5 → t.cpsr.getLsbD k = s.cpsr.getLsbD k
  jumped : t.jumped = (s.jumped || (m.list.getLsbD 15 || (m.w && decide (m.rn = Reg.pc))))
  others : t = { s with regs := t.regs, jumped := t.jumped, cpsr := t.cpsr, periph := u.periph, busTick := u.busTick }

/-- A data-processing instruction with S = 1, TST, TEQ, CMP and CMN among them. -/
def setsFlags : Instr → Bool
  | .andImm _ sf _ _ _ | .andShift _ sf _ _ _ | .eorImm _ sf _ _ _ | .eorShift _ sf _ _ _
  | .subImm _ sf _ _ _ | .subShift _ sf _ _ _ | .rsbImm _ sf _ _ _ | .rsbShift _ sf _ _ _
  | .addImm _ sf _ _ _ | .addShift _ sf _ _ _ | .adcImm _ sf _ _ _ | .adcShift _ sf _ _ _
  | .sbcImm _ sf _ _ _ | .sbcShift _ sf _ _ _ | .rscImm _ sf _ _ _ | .rscShift _ sf _ _ _
  | .orrImm _ sf _ _ _ | .orrShift _ sf _ _ _ | .movImm _ sf _ _ _ | .movShift _ sf _ _ _
  | .bicImm _ sf _ _ _ | .bicShift _ sf _ _ _ | .mvnImm _ sf _ _ _ | .mvnShift _ sf _ _ _ => sf
  | .tstImm _ _ _ _ | .tstShift _ _ _ _ | .teqImm _ _ _ _ | .teqShift _ _ _ _
  | .cmpImm _ _ _ _ | .cmpShift _ _ _ _ | .cmnImm _ _ _ _ | .cmnShift _ _ _ _ => true
  | _ => false

/-- The Rd of a data-processing instruction that writes it. -/
def dpDestination : Instr → Option Reg
  | .andImm _ _ _ rd _ | .andShift _ _ _ rd _ | .eorImm _ _ _ rd _ | .eorShift _ _ _ rd _
  | .subImm _ _ _ rd _ | .subShift _ _ _ rd _ | .rsbImm _ _ _ rd _ | .rsbShift _ _ _ rd _
  | .addImm _ _ _ rd _ | .addShift _ _ _ rd _ | .adcImm _ _ _ rd _ | .adcShift _ _ _ rd _
  | .sbcImm _ _ _ rd _ | .sbcShift _ _ _ rd _ | .rscImm _ _ _ rd _ | .rscShift _ _ _ rd _
  | .orrImm _ _ _ rd _ | .orrShift _ _ _ rd _ | .movImm _ _ _ rd _ | .movShift _ _ _ rd _
  | .bicImm _ _ _ rd _ | .bicShift _ _ _ rd _ | .mvnImm _ _ _ rd _ | .mvnShift _ _ _ rd _ => some rd
  | _ => none

/-- The writers of CPSR in R39 but for the host and reset: (1) and (2) data processing with S = 1, (3) MSR with R = 0,
(4) BLX and the loads of register 15, (5) MRC with Rd = 15. -/
def mayWriteCpsr (i : Instr) : Bool :=
  match i with
  | .msrReg _ r _ _ | .msrImm _ r _ _ => !r
  | .blx _ _ => true
  | .ldr _ m => decide (m.rd = Reg.pc)
  | .ldm _ m => m.list.getLsbD 15
  | .mrc _ d => decide (d.rd = Reg.pc)
  | _ => setsFlags i

/-- The writers of the mode field in R318 but for the host and reset: the restore, and MSR CPSR with the c field. -/
def mayWriteMode (i : Instr) : Bool :=
  match i with
  | .msrReg _ r mask _ | .msrImm _ r mask _ => !r && mask.getLsbD 0
  | _ => setsFlags i && decide (dpDestination i = some Reg.pc)

/-- The writers of the PC in R245 but for `nextPC`, the host and reset. -/
def mayJump (i : Instr) : Bool :=
  match i with
  | .b _ _ | .bl _ _ | .blx _ _ | .undefinedNv | .cdp _ _ | .mcr _ _ | .mrc _ _ => true
  | .ldr _ m | .ldrb _ m => decide (m.rd = Reg.pc ∨ (WritesBack m ∧ m.rn = Reg.pc))
  | .str _ m | .strb _ m => decide (WritesBack m ∧ m.rn = Reg.pc)
  | .ldm _ m => m.list.getLsbD 15 || (m.w && decide (m.rn = Reg.pc))
  | .stm _ m => m.w && decide (m.rn = Reg.pc)
  | .mrs _ _ rd => decide (rd = Reg.pc)
  | _ => decide (dpDestination i = some Reg.pc)

/-- The composite id as arithmetic on the four fields (R41, R250). -/
def idNumber (crn opcode1 crm opcode2 : Nat) : Nat :=
  4096 * crn + 256 * opcode1 + 16 * crm + opcode2

/-- The rows of class `not_implemented`. -/
def isUnimplemented : Instr → Bool
  | .dpRegisterShift _ _ _ _ _ _ _ _ | .multiplyExtendedSpace _ | .lsRegisterOffset _ _ _ _ _ _ _ _ _ => true
  | _ => false

/-- The rows of class `unsupported`. -/
def isUnsupported : Instr → Bool
  | .dpImmediateEmptySlot _ | .lsmSBit _ _ _ | .ldcStc _ _ _ _ _ _ _ _ _ _ | .swi _ _ => true
  | _ => false

/-- The rows of class `unlisted`. -/
def isUnlisted : Instr → Bool
  | .mrs _ _ _ | .eorImm _ _ _ _ _ | .eorShift _ _ _ _ _ | .cmnImm _ _ _ _ | .cmnShift _ _ _ _ | .ldrb _ _
  | .strb _ _ => true
  | _ => false

/-- The encodings that are `Fatal(UnsupportedEncoding)` at classification (R119). -/
def unsupportedNow (i : Instr) (s : State) : Bool :=
  isUnsupported i || (isUnlisted i && decide (s.cfg.unlisted = .refuse))

/-- Two outcomes that agree but for CPSR[27:0]: the same stop for the same reason, or next states that differ at most
there. -/
def AgreeButLowCpsr : Result → Result → Prop
  | .next t, .next u => u = { t with cpsr := u.cpsr } ∧ ∀ k, 28 ≤ k → u.cpsr.getLsbD k = t.cpsr.getLsbD k
  | .fault e, .fault f => e = f
  | .refused q, .refused r => q = r
  | _, _ => False

/-- A state with another DISASSEMBLY_MODE. -/
def withDisassembly (on : Bool) (s : State) : State :=
  { s with cfg := { s.cfg with disassembly := on } }

/-- `t` is a state that a Fatal or Refuse left, from `s`: the stop status is `c`, and a step of the core does nothing (R46,
R310); what no step changes stays, the configuration, the registered ids and the halt input (R40, R44, R47); the
well-formedness of the state stays. -/
structure StoppedFrom (s t : State) (c : StopStatus) : Prop where
  status : t.stop = c
  stays : step t = .next t
  cfg : t.cfg = s.cfg
  ids : registeredIds t = registeredIds s
  halt : t.haltReq = s.haltReq
  wf : WfState s → WfState t

/-- The outcome of a step, its next state changed by `f`. -/
def mapNext (f : State → State) : Result → Result
  | .next t => .next (f t)
  | .fault e => .fault e
  | .refused r => .refused r

end Sys2Proof.Machine

open Sys2Proof Sys2Proof.Machine

/-! ## Encoding -/

/-- Decoding the encoding of an instruction gives it back, every operand at every value (R112 to R116). -/
def Obligations.DecodeEncodeRoundTrip : Prop :=
  ∀ i : Instr, decode (encode i) = i

/-- Every word's decoding is the first row of the opcode table, in the order listed, that matches it (R117). -/
def Obligations.DecodeIsFirstMatchingRow : Prop :=
  ∀ w : Word, ∃ r, firstRow w = some r ∧ r.priority = (decode w).row

/-- No bit that a word's row looks at is lost: encoding the decoded word gives those bits back (R118, R126). -/
def Obligations.EncodeKeepsLookedAtBits : Prop :=
  ∀ (w : Word) (r : OpcodeRow), firstRow w = some r → encode (decode w) &&& r.looked = w &&& r.looked

/-- Words written out from the formats decode to the instructions of R125. -/
def Obligations.WordsOfTheSpecDecode : Prop :=
  decode 0xe0810002 = .addShift .al false 1 0 { amount := 0, kind := .lsl, rm := 2 } ∧
  decode 0xe3b00000 = .movImm .al true 0 0 { rot := 0, imm8 := 0 } ∧
  decode 0xe5912004 = .ldr .al { p := true, u := true, w := false, rn := 1, rd := 2, imm12 := 4 } ∧
  decode 0xe92d4010 = .stm .al { p := true, u := false, w := true, rn := 13, list := 0x4010 } ∧
  decode 0x1afffffc = .b .ne 0xfffffc ∧
  decode 0xfa000000 = .blx false 0 ∧
  decode 0xee010f10 = .mcr .al { opcode1 := 0, crn := 1, rd := 0, cp := 15, opcode2 := 0, crm := 0 } ∧
  decode 0xe12fff1e = .dpRegisterShift .al 9 false 15 15 15 .lsl 14

/-- Four bytes hold the instruction of the word they make, the lowest address lowest; fewer hold none (R78, R100). -/
def Obligations.BytesHoldTheWordLittleEndian : Prop :=
  (∀ (w : Word) (rest : List Byte), decodeBytes (bytesOfWord w ++ rest) = .ok (decode w, rest)) ∧
  (∀ l : List Byte, l.length < 4 → decodeBytes l = .error .truncated) ∧
  ∀ (b0 b1 b2 b3 : Byte) (k : Nat), k < 8 →
    (wordOfBytes b0 b1 b2 b3).getLsbD k = b0.getLsbD k ∧
    (wordOfBytes b0 b1 b2 b3).getLsbD (8 + k) = b1.getLsbD k ∧
    (wordOfBytes b0 b1 b2 b3).getLsbD (16 + k) = b2.getLsbD k ∧
    (wordOfBytes b0 b1 b2 b3).getLsbD (24 + k) = b3.getLsbD k

/-! ## Registers, reset, host surface -/

/-- R22: register 15 reads as the stored PC plus 8, modulo 2^32; every other register as stored; the host's `getReg` is the
same read. -/
def Obligations.RegisterReadHasPcBias : Prop :=
  ∀ (s : State) (i : Reg),
    (i ≠ Reg.pc → s.readReg i = s.regs.get i) ∧
    (s.readReg Reg.pc).toNat = ((s.regs.get Reg.pc).toNat + 8) % 2 ^ 32 ∧
    hostGetReg i.val s = some (s.readReg i)

/-- R23: a write stores the value as given, sets jumped exactly for register 15, and changes nothing else; the host's
`setReg` is the same write, its value reduced modulo 2^32. -/
def Obligations.RegisterWriteSetsJumpedForPc : Prop :=
  ∀ (s : State) (i : Reg) (v : Nat), ∃ t, hostSetReg i.val v s = some t ∧ t = s.writeReg i (BitVec.ofNat 32 v) ∧
    (t.regs.get i).toNat = v % 2 ^ 32 ∧ (∀ j, j ≠ i → t.regs.get j = s.regs.get j) ∧
    t.jumped = (s.jumped || decide (i = Reg.pc)) ∧ t = { s with regs := t.regs, jumped := t.jumped }

/-- R26: `nextPC` advances the stored PC by 4 only when jumped is clear, then clears it, and changes nothing else. -/
def Obligations.NextPcAdvancesUnlessJumped : Prop :=
  ∀ s : State,
    (s.jumped = false → (nextPC s).regs.get Reg.pc = s.regs.get Reg.pc + 4) ∧
    (s.jumped = true → (nextPC s).regs.get Reg.pc = s.regs.get Reg.pc) ∧
    (∀ i, i ≠ Reg.pc → (nextPC s).regs.get i = s.regs.get i) ∧
    (nextPC s).jumped = false ∧ nextPC s = { s with regs := (nextPC s).regs, jumped := false }

/-- The reset entry (R340, with the spec's decisions D1, D5, D6): M = 0x13, T = 0, PC 0 by an ordinary write, running,
and nothing else. -/
def Obligations.ResetEntryWritesOnlyPcModeAndStatus : Prop :=
  ∀ s : State,
    (hostReset s).regs.get Reg.pc = 0 ∧ (hostReset s).jumped = true ∧ (hostReset s).stop = .running ∧
    fieldM (hostReset s).cpsr = 0x13 ∧ flagT (hostReset s).cpsr = false ∧
    (∀ k, 6 ≤ k → (hostReset s).cpsr.getLsbD k = s.cpsr.getLsbD k) ∧
    (∀ i, i ≠ Reg.pc → (hostReset s).regs.get i = s.regs.get i) ∧
    (hostReset s).nextFetchAddr = 0 ∧
    hostReset s = { s with regs := (hostReset s).regs, jumped := true, cpsr := (hostReset s).cpsr, stop := .running }

/-- The state after reset (R49). The source document gives PC = 0; that jumped is 1 is the spec's decision D1, that M = 0x13 and
T = 0 are written is D6, and the status running is D5. The parameters hold the spec's decided defaults (R6: D2, D3, D4, D14,
D22, D23), and that `State.reset` holds them is the model's choice (log 1). The other fields are the model's choices
(log 2 to 8). -/
def Obligations.ResetStateHasTheGivenValues : Prop :=
  State.reset.regs.get Reg.pc = 0 ∧ State.reset.jumped = true ∧ fieldM State.reset.cpsr = 0x13 ∧
    flagT State.reset.cpsr = false ∧ State.reset.stop = .running ∧ State.reset.nextFetchAddr = 0 ∧
    State.reset.cfg.errorPolicy = .abort ∧ State.reset.cfg.thumbPolicy = .refuse ∧
    State.reset.cfg.unlisted = .refuse ∧ State.reset.cfg.shiftZeroIs32 = true ∧
    State.reset.cfg.mrcFlags = .coprocTop ∧ State.reset.cfg.cdp = .identity

/-- R302, R342: the Undefined entry writes 4 to the PC, sets jumped and, read literally (the spec's decision D28), changes
nothing else: not r14, not SPSR, not CPSR; the next fetch is at 4. -/
def Obligations.UndefinedEntryWritesOnlyThePc : Prop :=
  ∀ s : State,
    (hostUndefinedEntry s).regs.get Reg.pc = 4 ∧ (hostUndefinedEntry s).jumped = true ∧
    (∀ i, i ≠ Reg.pc → (hostUndefinedEntry s).regs.get i = s.regs.get i) ∧
    (hostUndefinedEntry s).nextFetchAddr = 4 ∧
    hostUndefinedEntry s = { s with regs := (hostUndefinedEntry s).regs, jumped := true }

/-- R38: the APSR view reads bits 31 to 27 and 19 to 16 and zeros elsewhere; a write through it changes exactly those bits
of CPSR. -/
def Obligations.ApsrIsTheMaskedView : Prop :=
  ∀ (s : State) (v : Word) (k : Nat), k < 32 →
    let seen := 27 ≤ k ∨ (16 ≤ k ∧ k ≤ 19)
    ((hostGetApsr s).getLsbD k = if seen then s.cpsr.getLsbD k else false) ∧
    ((hostSetApsr v s).cpsr.getLsbD k = if seen then v.getLsbD k else s.cpsr.getLsbD k) ∧
    hostSetApsr v s = { s with cpsr := (hostSetApsr v s).cpsr }

/-! ## The masked access unit and the router -/

/-- R71: for widths in WIDTHS `readMasked` is the bus word shifted down by `shiftFor`, not truncated, and where the request
is no wider than the bus its low bits are the little-endian field of the bus word at the address rounded down to the
request's width; other widths are Fatal(InvalidWidth). -/
def Obligations.ReadMaskedSelectsTheField : Prop :=
  (∀ (a : Addr) (w : BitVec 64) (b d : Nat), legalWidth b = true → legalWidth d = true → d ≤ b →
    ∀ k, k < d → (w >>> shiftFor a b d).getLsbD k = w.getLsbD (8 * (a.toNat % (b / 8) / (d / 8) * (d / 8)) + k)) ∧
  (∀ (a : Addr) (w : BitVec 64) (b d : Nat), legalWidth b = true → legalWidth d = true →
    readMasked a w b d = .ok (w >>> shiftFor a b d)) ∧
  ∀ (a : Addr) (w : BitVec 64) (b d : Nat), (legalWidth b = false ∨ legalWidth d = false) →
    readMasked a w b d = .error .invalidWidth

/-- R72: `writeMasked` puts the low bits of the new data into the field and preserves every bit outside it; what is written
reads back; a width outside WIDTHS is Fatal(InvalidWidth). -/
def Obligations.WriteMaskedLaws : Prop :=
  (∀ (a : Addr) (w n : BitVec 64) (b d : Nat), legalWidth b = true → legalWidth d = true →
    writeMasked a w n b d =
      .ok (w &&& ~~~(dataMask d <<< shiftFor a b d) ||| (n &&& dataMask d) <<< shiftFor a b d)) ∧
  (∀ (a : Addr) (w n : BitVec 64) (b d : Nat), legalWidth b = true → legalWidth d = true → d ≤ b →
    ∃ w' v, writeMasked a w n b d = .ok w' ∧ readMasked a w' b d = .ok v ∧
      v &&& dataMask d = n &&& dataMask d ∧
      w' &&& ~~~(dataMask d <<< shiftFor a b d) = w &&& ~~~(dataMask d <<< shiftFor a b d)) ∧
  ∀ (a : Addr) (w n : BitVec 64) (b d : Nat), (legalWidth b = false ∨ legalWidth d = false) →
    writeMasked a w n b d = .error .invalidWidth

/-- R62, R63 and R65: in a well-formed table `Lookup` finds exactly the region that covers the address. A request that no
region covers is Fatal(AddressRangeMiss); one wider than the device is Fatal(WidthExceedsDevice) (R76, the spec's decision
D12). -/
def Obligations.LookupFindsTheCoveringRegion : Prop :=
  ∀ (a : Addr) (d : Nat) (v : BitVec 64) (s : State),
    (AddressMap.wf s.cfg.addressMap = true → ∀ r, lookup s.cfg.addressMap a = some r ↔
      r ∈ s.cfg.addressMap ∧ r.base.toNat ≤ a.toNat ∧ a.toNat ≤ r.limit.toNat) ∧
    ((∀ r ∈ s.cfg.addressMap, ¬(r.base.toNat ≤ a.toNat ∧ a.toNat ≤ r.limit.toNat)) →
      busRead a d s = .error .addressRangeMiss ∧ busWrite a d v s = .error .addressRangeMiss) ∧
    ∀ r, lookup s.cfg.addressMap a = some r → r.width < d →
      busRead a d s = .error .widthExceedsDevice ∧ busWrite a d v s = .error .widthExceedsDevice

/-- R79 (RAM as a byte array is the spec's decision D15; one byte memory for all RAM regions is the model's, log 19): over
RAM of any width the router reads as a flat little-endian byte memory, at the address rounded down to the request's width,
and the read changes nothing. -/
def Obligations.RamReadIsFlat : Prop :=
  ∀ (a : Addr) (d : Nat) (s : State) (r : Region), legalWidth d = true → lookup s.cfg.addressMap a = some r →
    r.device = .ram → r.wf = true → d ≤ r.width →
    busRead a d s = .ok (BitVec.ofNat 64 (readBytes s.mem (a.toNat / (d / 8) * (d / 8)) (d / 8)), s)

/-- R79 (the spec's decision D15; one byte memory for all RAM regions is the model's, log 19): over RAM of any width a
router write stores the request's bytes, little-endian, at the address rounded down to the request's width, and leaves every
other byte and everything else alone. -/
def Obligations.RamWriteIsFlat : Prop :=
  ∀ (a : Addr) (d : Nat) (v : BitVec 64) (s : State) (r : Region), Memory.wf s.mem = true → legalWidth d = true →
    lookup s.cfg.addressMap a = some r → r.device = .ram → r.wf = true → d ≤ r.width →
    ∃ t, busWrite a d v s = .ok t ∧ t = { s with mem := t.mem } ∧
      (∀ k, k < d / 8 → t.byteAt (a.toNat / (d / 8) * (d / 8) + k) = v.extractLsb' (8 * k) 8) ∧
      ∀ x, ¬(a.toNat / (d / 8) * (d / 8) ≤ x ∧ x < a.toNat / (d / 8) * (d / 8) + d / 8) → t.byteAt x = s.byteAt x

/-- R74, R75, R354, R355: on a device that is not RAM a read is one device read of the whole bus word, of which the request
gets its little-endian field; a narrow write is one read and then one write of the whole bus word; a full-width write is one
write. The device sees them at its own offset, the address less the region's base rounded down to its own width (the spec's
decision D13, log 18), and its next state stays, whatever it answers (log 8). -/
def Obligations.DeviceSeesReadThenWrite : Prop :=
  ∀ (a : Addr) (d n : Nat) (v : BitVec 64) (s : State) (r : Region), lookup s.cfg.addressMap a = some r →
    r.device = .peripheral n → r.wf = true → legalWidth d = true →
    let off := (a &&& addressMask r.width) - r.base
    let st := cellGet periphDefault s.periph n
    let q := Config.peripheralRead n s.busTick st off
    off.toNat + r.base.toNat = a.toNat / (r.width / 8) * (r.width / 8) ∧
    (d ≤ r.width → ∃ x, busRead a d s = .ok (x, { s with
        periph := cellSet periphDefault s.periph n q.2
        busTick := s.busTick + 1 }) ∧
      ∀ k, x.getLsbD k =
        (decide (k < d) && q.1.getLsbD (8 * (a.toNat % (r.width / 8) / (d / 8) * (d / 8)) + k))) ∧
    (d = r.width → busWrite a d v s = .ok { s with
        periph := cellSet periphDefault s.periph n
          (Config.peripheralWrite n s.busTick st off (v &&& dataMask r.width))
        busTick := s.busTick + 1 }) ∧
    (d < r.width → ∃ w, writeMasked a q.1 v r.width d = .ok w ∧ ∃ t, busWrite a d v s = .ok t ∧
        t = { s with periph := t.periph, busTick := s.busTick + 2 } ∧
        t.periph = cellSet periphDefault (cellSet periphDefault s.periph n q.2) n
          (Config.peripheralWrite n (s.busTick + 1)
            (cellGet periphDefault (cellSet periphDefault s.periph n q.2) n) off (w &&& dataMask r.width)))

/-! ## Conditions and operands -/

/-- The condition table (R140, R141): each test reads N, Z, C, V only, and an odd code is the negation of the even code
before it. -/
def Obligations.ConditionsReadOnlyTheFlags : Prop :=
  (∀ (c : Cond) (w w' : Word), (∀ k, 28 ≤ k → w.getLsbD k = w'.getLsbD k) → condPassed c w = condPassed c w') ∧
  (∀ w : Word, condPassed .eq w = w.getLsbD 30 ∧ condPassed .cs w = w.getLsbD 29 ∧ condPassed .mi w = w.getLsbD 31 ∧
    condPassed .vs w = w.getLsbD 28 ∧ condPassed .hi w = (w.getLsbD 29 && !w.getLsbD 30) ∧
    condPassed .ge w = (w.getLsbD 31 == w.getLsbD 28) ∧
    condPassed .gt w = (!w.getLsbD 30 && (w.getLsbD 31 == w.getLsbD 28)) ∧ condPassed .al w = true) ∧
  ∀ (c d : Cond) (w : Word), c.code % 2 = 0 → d.code = c.code + 1 → condPassed d w = !condPassed c w

/-- The immediate operand (R150; its carry-out is the spec's decision D14): the eight bits rotated right by twice the rotate
field; C unchanged for rotation 0, else bit 31. -/
def Obligations.ImmediateOperandRotates : Prop :=
  ∀ (op : ImmOperand) (s : State),
    (∀ k, k < 32 → (immOperand op s).op2.getLsbD k = op.imm8.getLsbD ((k + 2 * op.rot.toNat) % 32)) ∧
    (op.rot = 0 → (immOperand op s).sco = flagC s.cpsr) ∧
    (op.rot ≠ 0 → (immOperand op s).sco = (immOperand op s).op2.getLsbD 31)

/-- The immediate-shift operand in exact arithmetic (R151 to R155; the carry-outs and amount 0 of LSR and ASR are the spec's
decision D14). -/
def Obligations.ShiftOperandForms : Prop :=
  ∀ (n : BitVec 5) (rm : Reg) (s : State),
    let m := s.readReg rm
    let out := fun k : ShiftKind => shiftOperand { amount := n, kind := k, rm := rm } s
    (n = 0 → out .lsl = { op2 := m, sco := flagC s.cpsr }) ∧
    (n ≠ 0 → (out .lsl).op2.toNat = m.toNat * 2 ^ n.toNat % 2 ^ 32 ∧ (out .lsl).sco = m.getLsbD (32 - n.toNat)) ∧
    (n = 0 → s.cfg.shiftZeroIs32 = true → out .lsr = { op2 := 0, sco := m.getLsbD 31 } ∧
      (out .asr).op2.toInt = m.toInt / 2 ^ 32 ∧ (out .asr).sco = m.getLsbD 31) ∧
    (n = 0 → s.cfg.shiftZeroIs32 = false →
      out .lsr = { op2 := m, sco := flagC s.cpsr } ∧ out .asr = { op2 := m, sco := flagC s.cpsr }) ∧
    (n ≠ 0 → (out .lsr).op2.toNat = m.toNat / 2 ^ n.toNat ∧ (out .lsr).sco = m.getLsbD (n.toNat - 1)) ∧
    (n ≠ 0 → (out .asr).op2.toInt = m.toInt / 2 ^ n.toNat ∧ (out .asr).sco = m.getLsbD (n.toNat - 1)) ∧
    (n ≠ 0 → (∀ k, k < 32 → (out .ror).op2.getLsbD k = m.getLsbD ((k + n.toNat) % 32)) ∧
      (out .ror).sco = m.getLsbD (n.toNat - 1)) ∧
    (n = 0 → (out .ror).op2.getLsbD 31 = flagC s.cpsr ∧
      (∀ k, k < 31 → (out .ror).op2.getLsbD k = m.getLsbD (k + 1)) ∧ (out .ror).sco = m.getLsbD 0)

/-! ## Data processing -/

/-- AND and ORR (R170, R182), both operand forms. -/
def Obligations.AndOrrResults : Prop :=
  ∀ (c : Cond) (sf : Bool) (rn rd : Reg) (s : State), condPassed c s.cpsr = true →
    (∀ op, let o := immOperand op s
      DpRuns (.andImm c sf rn rd op) sf true rd (s.readReg rn &&& o.op2) o.sco (flagV s.cpsr) s ∧
      DpRuns (.orrImm c sf rn rd op) sf true rd (s.readReg rn ||| o.op2) o.sco (flagV s.cpsr) s) ∧
    ∀ op, let o := shiftOperand op s
      DpRuns (.andShift c sf rn rd op) sf true rd (s.readReg rn &&& o.op2) o.sco (flagV s.cpsr) s ∧
      DpRuns (.orrShift c sf rn rd op) sf true rd (s.readReg rn ||| o.op2) o.sco (flagV s.cpsr) s

/-- BIC and MVN (R184, R185: and-not and complement are the spec's general knowledge G10). -/
def Obligations.BicMvnResults : Prop :=
  ∀ (c : Cond) (sf : Bool) (rn rd : Reg) (s : State), condPassed c s.cpsr = true →
    (∀ op, let o := immOperand op s
      DpRuns (.bicImm c sf rn rd op) sf true rd (s.readReg rn &&& ~~~o.op2) o.sco (flagV s.cpsr) s ∧
      DpRuns (.mvnImm c sf rn rd op) sf true rd (~~~o.op2) o.sco (flagV s.cpsr) s) ∧
    ∀ op, let o := shiftOperand op s
      DpRuns (.bicShift c sf rn rd op) sf true rd (s.readReg rn &&& ~~~o.op2) o.sco (flagV s.cpsr) s ∧
      DpRuns (.mvnShift c sf rn rd op) sf true rd (~~~o.op2) o.sco (flagV s.cpsr) s

/-- MOV (R183): the operand into Rd; with S = 1 and Rd = 15 CPSR from SPSR. -/
def Obligations.MovResults : Prop :=
  ∀ (c : Cond) (sf : Bool) (rn rd : Reg) (s : State), condPassed c s.cpsr = true →
    (∀ op, DpRuns (.movImm c sf rn rd op) sf true rd (immOperand op s).op2 (immOperand op s).sco (flagV s.cpsr) s) ∧
    ∀ op, DpRuns (.movShift c sf rn rd op) sf true rd (shiftOperand op s).op2 (shiftOperand op s).sco (flagV s.cpsr) s

/-- TST (R178) and TEQ (R179: exclusive or is the spec's general knowledge G10): flags only, no register written, an Rd field
of 15 ignored (the spec's decision D8). -/
def Obligations.TstTeqResults : Prop :=
  ∀ (c : Cond) (rn rd : Reg) (s : State), condPassed c s.cpsr = true →
    (∀ op, let o := immOperand op s
      DpRuns (.tstImm c rn rd op) true false rd (s.readReg rn &&& o.op2) o.sco (flagV s.cpsr) s ∧
      DpRuns (.teqImm c rn rd op) true false rd (s.readReg rn ^^^ o.op2) o.sco (flagV s.cpsr) s) ∧
    ∀ op, let o := shiftOperand op s
      DpRuns (.tstShift c rn rd op) true false rd (s.readReg rn &&& o.op2) o.sco (flagV s.cpsr) s ∧
      DpRuns (.teqShift c rn rd op) true false rd (s.readReg rn ^^^ o.op2) o.sco (flagV s.cpsr) s

/-- ADD (R174): the sum, the unsigned carry-out, the signed overflow of the exact sum (R146). -/
def Obligations.AddResults : Prop :=
  ∀ (c : Cond) (sf : Bool) (rn rd : Reg) (s : State), condPassed c s.cpsr = true →
    let a := s.readReg rn
    (∀ op, let b := (immOperand op s).op2
      DpRuns (.addImm c sf rn rd op) sf true rd (a + b) (decide (2 ^ 32 ≤ a.toNat + b.toNat))
        (signedOverflow (a.toInt + b.toInt)) s) ∧
    ∀ op, let b := (shiftOperand op s).op2
      DpRuns (.addShift c sf rn rd op) sf true rd (a + b) (decide (2 ^ 32 ≤ a.toNat + b.toNat))
        (signedOverflow (a.toInt + b.toInt)) s

/-- SUB (R172): the difference, C as NOT borrow, the signed overflow of the exact difference (R146). -/
def Obligations.SubResults : Prop :=
  ∀ (c : Cond) (sf : Bool) (rn rd : Reg) (s : State), condPassed c s.cpsr = true →
    let a := s.readReg rn
    (∀ op, let b := (immOperand op s).op2
      DpRuns (.subImm c sf rn rd op) sf true rd (a - b) (decide (b.toNat ≤ a.toNat))
        (signedOverflow (a.toInt - b.toInt)) s) ∧
    ∀ op, let b := (shiftOperand op s).op2
      DpRuns (.subShift c sf rn rd op) sf true rd (a - b) (decide (b.toNat ≤ a.toNat))
        (signedOverflow (a.toInt - b.toInt)) s

/-- CMP (R180): the flags of the difference, no register written. That an Rd field of 15 is ignored and does not restore CPSR
is the spec's decision D8 (R159). -/
def Obligations.CmpResults : Prop :=
  ∀ (c : Cond) (rn rd : Reg) (s : State), condPassed c s.cpsr = true →
    let a := s.readReg rn
    (∀ op, let b := (immOperand op s).op2
      DpRuns (.cmpImm c rn rd op) true false rd (a - b) (decide (b.toNat ≤ a.toNat))
        (signedOverflow (a.toInt - b.toInt)) s) ∧
    ∀ op, let b := (shiftOperand op s).op2
      DpRuns (.cmpShift c rn rd op) true false rd (a - b) (decide (b.toNat ≤ a.toNat))
        (signedOverflow (a.toInt - b.toInt)) s

/-- RSB, ADC, SBC and RSC (R173, R175 to R177, with R147 and R148: the spec's decision D16 and general knowledge G10): the
reverse forms take the shifter operand as the minuend, ADC adds C, SBC and RSC subtract NOT C; C and V are those of the
exact sum or difference. -/
def Obligations.ReverseAndCarryResults : Prop :=
  ∀ (c : Cond) (sf : Bool) (rn rd : Reg) (s : State), condPassed c s.cpsr = true →
    let a := s.readReg rn
    let cin := (flagC s.cpsr).toNat
    let bin := (!flagC s.cpsr).toNat
    (∀ op, let b := (immOperand op s).op2
      DpRuns (.rsbImm c sf rn rd op) sf true rd (b - a) (decide (a.toNat ≤ b.toNat))
        (signedOverflow (b.toInt - a.toInt)) s ∧
      DpRuns (.adcImm c sf rn rd op) sf true rd (a + b + BitVec.ofNat 32 cin)
        (decide (2 ^ 32 ≤ a.toNat + b.toNat + cin)) (signedOverflow (a.toInt + b.toInt + cin)) s ∧
      DpRuns (.sbcImm c sf rn rd op) sf true rd (a - b - BitVec.ofNat 32 bin) (decide (b.toNat + bin ≤ a.toNat))
        (signedOverflow (a.toInt - b.toInt - bin)) s ∧
      DpRuns (.rscImm c sf rn rd op) sf true rd (b - a - BitVec.ofNat 32 bin) (decide (a.toNat + bin ≤ b.toNat))
        (signedOverflow (b.toInt - a.toInt - bin)) s) ∧
    ∀ op, let b := (shiftOperand op s).op2
      DpRuns (.rsbShift c sf rn rd op) sf true rd (b - a) (decide (a.toNat ≤ b.toNat))
        (signedOverflow (b.toInt - a.toInt)) s ∧
      DpRuns (.adcShift c sf rn rd op) sf true rd (a + b + BitVec.ofNat 32 cin)
        (decide (2 ^ 32 ≤ a.toNat + b.toNat + cin)) (signedOverflow (a.toInt + b.toInt + cin)) s ∧
      DpRuns (.sbcShift c sf rn rd op) sf true rd (a - b - BitVec.ofNat 32 bin) (decide (b.toNat + bin ≤ a.toNat))
        (signedOverflow (a.toInt - b.toInt - bin)) s ∧
      DpRuns (.rscShift c sf rn rd op) sf true rd (b - a - BitVec.ofNat 32 bin) (decide (a.toNat + bin ≤ b.toNat))
        (signedOverflow (b.toInt - a.toInt - bin)) s

/-- EOR and CMN under UNLISTED_INSTRUCTIONS = implement (R171, R181; the spec's decision D4 and general knowledge G10). -/
def Obligations.EorCmnResultsWhereImplemented : Prop :=
  ∀ (c : Cond) (sf : Bool) (rn rd : Reg) (s : State), condPassed c s.cpsr = true → s.cfg.unlisted = .implement →
    let a := s.readReg rn
    (∀ op, let o := immOperand op s
      DpRuns (.eorImm c sf rn rd op) sf true rd (a ^^^ o.op2) o.sco (flagV s.cpsr) s ∧
      DpRuns (.cmnImm c rn rd op) true false rd (a + o.op2) (decide (2 ^ 32 ≤ a.toNat + o.op2.toNat))
        (signedOverflow (a.toInt + o.op2.toInt)) s) ∧
    ∀ op, let o := shiftOperand op s
      DpRuns (.eorShift c sf rn rd op) sf true rd (a ^^^ o.op2) o.sco (flagV s.cpsr) s ∧
      DpRuns (.cmnShift c rn rd op) true false rd (a + o.op2) (decide (2 ^ 32 ≤ a.toNat + o.op2.toNat))
        (signedOverflow (a.toInt + o.op2.toInt)) s

/-! ## Status registers -/

/-- MRS under UNLISTED_INSTRUCTIONS = implement (R186; decision D4): all 32 bits of CPSR or SPSR into Rd, no flag. Rd = 15
is refused (U9) or, under the model's parameter of log 11, a jump to the value. -/
def Obligations.MrsReadsTheStatusRegister : Prop :=
  ∀ (c : Cond) (r : Bool) (rd : Reg) (s : State), condPassed c s.cpsr = true → s.cfg.unlisted = .implement →
    (¬(rd = Reg.pc ∧ s.cfg.pcOperands = .refuse) →
      exec (.mrs c r rd) s = .next (s.writeReg rd (if r then s.spsr else s.cpsr))) ∧
    (rd = Reg.pc → s.cfg.pcOperands = .refuse → exec (.mrs c r rd) s = .refused .mrsPc)

/-- MSR, both forms (R187, R188; general knowledge G9, decision D18): the selected bytes of CPSR or SPSR, in every mode,
and nothing else. -/
def Obligations.MsrWritesTheSelectedBytes : Prop :=
  ∀ (c : Cond) (r : Bool) (mask : BitVec 4) (s : State), condPassed c s.cpsr = true →
    ∀ (i : Instr) (v : Word),
      ((∃ rm, i = .msrReg c r mask rm ∧ v = s.readReg rm) ∨
        ∃ op : ImmOperand, i = .msrImm c r mask op ∧ v = (op.imm8.setWidth 32).rotateRight (2 * op.rot.toNat)) →
      ∃ t, exec i s = .next t ∧
        (r = false → t = { s with cpsr := t.cpsr } ∧
          ∀ k, k < 32 → t.cpsr.getLsbD k = if mask.getLsbD (k / 8) then v.getLsbD k else s.cpsr.getLsbD k) ∧
        (r = true → t = { s with spsr := t.spsr } ∧
          ∀ k, k < 32 → t.spsr.getLsbD k = if mask.getLsbD (k / 8) then v.getLsbD k else s.spsr.getLsbD k)

/-! ## Single load and store -/

/-- R200: offset, pre-indexed and post-indexed addresses, and when the base is written back. -/
def Obligations.SingleTransferAddress : Prop :=
  ∀ (m : LsOperand) (s : State),
    let base := s.readReg m.rn
    let moved := if m.u then base + m.imm12.setWidth 32 else base - m.imm12.setWidth 32
    (m.p = true → (address m s).addr = moved) ∧ (m.p = false → (address m s).addr = base) ∧
      (address m s).newBase = moved ∧ ((address m s).writeback = true ↔ WritesBack m)

/-- LDR (R202): the aligned word rotated right by the address's low two bits times 8 into Rd; Rd = 15 takes bits [31:1] and
T from bit 0; the base is written back where the form says so; nothing else changes. Over RAM it completes and reads the
bytes there; over any device that answers, what the read changed in the device stays; a read that fails is that fault. The
effect of register 15 as a written-back base (U3), under the model's parameter byRules, is the model's choice (log 11). -/
def Obligations.LdrLoadsTheRotatedWord : Prop :=
  ∀ (c : Cond) (m : LsOperand) (s : State), condPassed c s.cpsr = true → SingleDefined m s →
    (RamWordAt (address m s).addr s → ∃ t, exec (.ldr c m) s = .next t ∧
      LdrPost m (ramWord (address m s).addr s) s s t) ∧
    (∀ e, readWord (address m s).addr s = .error e → exec (.ldr c m) s = .fault e) ∧
    ∀ data u, readWord (address m s).addr s = .ok (data, u) → ∃ t, exec (.ldr c m) s = .next t ∧ LdrPost m data s u t

/-- LDRB under UNLISTED_INSTRUCTIONS = implement (R204; decision D4): the byte, zero-extended, into Rd; over RAM it completes
and reads the byte there; a read that fails is that fault. The effect of Rd = 15, a jump to the byte, is the model's choice
where a model should refuse (log 12), and so is that of register 15 as a written-back base under byRules (log 11). -/
def Obligations.LdrbLoadsTheByteWhereImplemented : Prop :=
  ∀ (c : Cond) (m : LsOperand) (s : State), condPassed c s.cpsr = true → s.cfg.unlisted = .implement →
    SingleDefined m s →
    (RamByteAt (address m s).addr s → ∃ t, exec (.ldrb c m) s = .next t ∧
      LdrbPost m (s.byteAt (address m s).addr.toNat) s s t) ∧
    (∀ e, readByteBus (address m s).addr s = .error e → exec (.ldrb c m) s = .fault e) ∧
    ∀ data u, readByteBus (address m s).addr s = .ok (data, u) →
      ∃ t, exec (.ldrb c m) s = .next t ∧ LdrbPost m data s u t

/-- STR (R203; the spec's decision D26), over RAM: the four bytes of the aligned word that contains the address become those of
x[Rd], every other byte stays; over any device: what the device write leaves, then the base write-back; a write that fails
is that fault. The effect of register 15 as a written-back base (U3), under the model's parameter byRules, is the model's
choice (log 11). -/
def Obligations.StrStoresTheWord : Prop :=
  ∀ (c : Cond) (m : LsOperand) (s : State), condPassed c s.cpsr = true → SingleDefined m s →
    (Memory.wf s.mem = true → RamWordAt (address m s).addr s →
      ∃ t, exec (.str c m) s = .next t ∧
        (∀ k, k < 4 → t.byteAt (alignedWord (address m s).addr + k) = (s.readReg m.rd).extractLsb' (8 * k) 8) ∧
        (∀ x, ¬(alignedWord (address m s).addr ≤ x ∧ x < alignedWord (address m s).addr + 4) →
          t.byteAt x = s.byteAt x) ∧
        (WritesBack m → t.regs.get m.rn = (address m s).newBase) ∧
        (∀ i, ¬(WritesBack m ∧ i = m.rn) → t.regs.get i = s.regs.get i) ∧
        t.jumped = (s.jumped || decide (WritesBack m ∧ m.rn = Reg.pc)) ∧
        t = { s with regs := t.regs, jumped := t.jumped, mem := t.mem }) ∧
    (∀ e, writeWord (address m s).addr (s.readReg m.rd) s = .error e → exec (.str c m) s = .fault e) ∧
    ∀ u, writeWord (address m s).addr (s.readReg m.rd) s = .ok u →
      exec (.str c m) s = .next (if (address m s).writeback then u.writeReg m.rn (address m s).newBase else u)

/-- STRB under UNLISTED_INSTRUCTIONS = implement (R205; decision D4), over RAM: the one byte at the address becomes the
low byte of x[Rd], every other byte stays; over any device: what the device write leaves, then the base write-back; a write
that fails is that fault. The effect of register 15 as a written-back base (U3), under the model's parameter byRules, is the
model's choice (log 11). -/
def Obligations.StrbStoresTheByteWhereImplemented : Prop :=
  ∀ (c : Cond) (m : LsOperand) (s : State), condPassed c s.cpsr = true → s.cfg.unlisted = .implement →
    SingleDefined m s →
    (Memory.wf s.mem = true → RamByteAt (address m s).addr s →
      ∃ t, exec (.strb c m) s = .next t ∧
        t.byteAt (address m s).addr.toNat = (s.readReg m.rd).extractLsb' 0 8 ∧
        (∀ x, x ≠ (address m s).addr.toNat → t.byteAt x = s.byteAt x) ∧
        (WritesBack m → t.regs.get m.rn = (address m s).newBase) ∧
        (∀ i, ¬(WritesBack m ∧ i = m.rn) → t.regs.get i = s.regs.get i) ∧
        t.jumped = (s.jumped || decide (WritesBack m ∧ m.rn = Reg.pc)) ∧
        t = { s with regs := t.regs, jumped := t.jumped, mem := t.mem }) ∧
    (∀ e, writeByteBus (address m s).addr ((s.readReg m.rd).setWidth 8) s = .error e → exec (.strb c m) s = .fault e) ∧
    ∀ u, writeByteBus (address m s).addr ((s.readReg m.rd).setWidth 8) s = .ok u →
      exec (.strb c m) s = .next (if (address m s).writeback then u.writeReg m.rn (address m s).newBase else u)

/-- The combinations the spec refuses (R208 with decision D25, R225 with D27, U3 under the parameter of log 11), where the
condition passed. Where two apply (Rd = Rn = 15 with write-back, or W = 1 and Rn = 15 in the list), that the reason is
U2's or U4's and not U3's is the model's choice (log 24). -/
def Obligations.RefusedCombinations : Prop :=
  ∀ (c : Cond) (m : LsOperand) (q : LsmOperand) (s : State), condPassed c s.cpsr = true →
    (WritesBack m → m.rd = m.rn →
      exec (.ldr c m) s = .refused .writebackRdEqRn ∧ exec (.str c m) s = .refused .writebackRdEqRn ∧
      (s.cfg.unlisted = .implement →
        exec (.ldrb c m) s = .refused .writebackRdEqRn ∧ exec (.strb c m) s = .refused .writebackRdEqRn)) ∧
    (WritesBack m → m.rd ≠ m.rn → m.rn = Reg.pc → s.cfg.pcOperands = .refuse →
      exec (.ldr c m) s = .refused .baseIsPc ∧ exec (.str c m) s = .refused .baseIsPc ∧
      (s.cfg.unlisted = .implement →
        exec (.ldrb c m) s = .refused .baseIsPc ∧ exec (.strb c m) s = .refused .baseIsPc)) ∧
    (q.w = true → q.list.getLsbD q.rn.val = true →
      exec (.ldm c q) s = .refused .baseInList ∧ exec (.stm c q) s = .refused .baseInList) ∧
    (¬(q.w = true ∧ q.list.getLsbD q.rn.val = true) → q.rn = Reg.pc → s.cfg.pcOperands = .refuse →
      exec (.ldm c q) s = .refused .baseIsPc ∧ exec (.stm c q) s = .refused .baseIsPc)

/-! ## Load and store multiple -/

/-- R220: the four address variants (their start formulas are the spec's general knowledge G5), the length, the written-back
value, and the registers of a list in ascending order. -/
def Obligations.MultipleTransferAddresses : Prop :=
  ∀ (m : LsmOperand) (s : State),
    let base := s.readReg m.rn
    let n := (regList m.list).length
    let len := 4 * BitVec.ofNat 32 n
    (m.p = false → m.u = true → startAddress m s = base) ∧
    (m.p = true → m.u = true → startAddress m s = base + 4) ∧
    (m.p = false → m.u = false → startAddress m s = base - len + 4) ∧
    (m.p = true → m.u = false → startAddress m s = base - len) ∧
    multipleBase m s = (if m.u then base + len else base - len) ∧
    (regList m.list).Pairwise (· < ·) ∧ ∀ i, i ∈ regList m.list ↔ m.list.getLsbD i.val = true

/-- LDM (R221): the k-th register of the list gets the k-th word; register 15, if listed, takes bits [31:1] and T from bit 0;
the base is written back where W = 1 (an order the spec decides in D27); nothing else changes. Over RAM it completes and
reads the words there; over any devices that answer, what the reads changed in them stays; a read that fails is that
fault. The effect of an empty list (U5), on which the spec lets no claim about the hardware depend, is the model's choice
(log 12), and so is that of register 15 as the base (U3) under the model's parameter byRules (log 11). -/
def Obligations.LdmLoadsTheList : Prop :=
  ∀ (c : Cond) (m : LsmOperand) (s : State), condPassed c s.cpsr = true → MultipleDefined m s →
    let n := (regList m.list).length
    ((∀ k, k < n → RamWordAt (transferAddress m s k) s) → ∃ t, exec (.ldm c m) s = .next t ∧
      LdmPost m ((List.range n).map fun k => ramWord (transferAddress m s k) s) s s t) ∧
    (∀ e, readSeq n (startAddress m s) s = .error e → exec (.ldm c m) s = .fault e) ∧
    ∀ vs u, readSeq n (startAddress m s) s = .ok (vs, u) → ∃ t, exec (.ldm c m) s = .next t ∧ LdmPost m vs s u t

/-- STM (R222) over RAM: the k-th listed register's value (register 15 plus 8) in the aligned word of the k-th transfer
address, every byte of memory outside those words as before, the base written back where W = 1, nothing else changed. Over
any devices: what the writes leave, then the base write-back; a write that fails is that fault. The effect of an empty list
(U5), on which the spec lets no claim about the hardware depend, is the model's choice (log 12), and so is that of register
15 as the base (U3) under the model's parameter byRules (log 11). -/
def Obligations.StmStoresTheList : Prop :=
  ∀ (c : Cond) (m : LsmOperand) (s : State), condPassed c s.cpsr = true → MultipleDefined m s →
    (Memory.wf s.mem = true → (∀ k, k < (regList m.list).length → RamWordAt (transferAddress m s k) s) →
      ∃ t, exec (.stm c m) s = .next t ∧
        (∀ (k : Nat) (i : Reg) (j : Nat), (regList m.list)[k]? = some i → j < 4 →
          t.byteAt (alignedWord (transferAddress m s k) + j) = (s.readReg i).extractLsb' (8 * j) 8) ∧
        (∀ x, (∀ k, k < (regList m.list).length →
            ¬(alignedWord (transferAddress m s k) ≤ x ∧ x < alignedWord (transferAddress m s k) + 4)) →
          t.byteAt x = s.byteAt x) ∧
        (m.w = true → t.regs.get m.rn = multipleBase m s) ∧
        (∀ i, ¬(m.w = true ∧ i = m.rn) → t.regs.get i = s.regs.get i) ∧
        t.jumped = (s.jumped || (m.w && decide (m.rn = Reg.pc))) ∧
        t = { s with regs := t.regs, jumped := t.jumped, mem := t.mem }) ∧
    (∀ u, writeSeq ((regList m.list).map s.readReg) (startAddress m s) s = .ok u →
      exec (.stm c m) s = .next (if m.w then u.writeReg m.rn (multipleBase m s) else u)) ∧
    ∀ e, writeSeq ((regList m.list).map s.readReg) (startAddress m s) s = .error e → exec (.stm c m) s = .fault e

/-! ## Branches -/

/-- B (R240), BL (R241) and BLX (R242): the target is the biased PC plus the sign-extended offset times 4, plus 2 for the H
bit; BL and BLX put the biased PC less 4 into r14; BLX sets T; nothing else changes. B and BL whose condition fails change
nothing. -/
def Obligations.BranchesTargetAndLink : Prop :=
  ∀ (offset : BitVec 24) (s : State),
    let target := fun extra : Int => BitVec.ofInt 32 ((s.readReg Reg.pc).toNat + offset.toInt * 4 + extra)
    (∀ c : Cond, condPassed c s.cpsr = true →
      (∃ t, exec (.b c offset) s = .next t ∧ t.regs.get Reg.pc = target 0 ∧ t.jumped = true ∧
        (∀ i, i ≠ Reg.pc → t.regs.get i = s.regs.get i) ∧ t = { s with regs := t.regs, jumped := true }) ∧
      ∃ t, exec (.bl c offset) s = .next t ∧ t.regs.get Reg.pc = target 0 ∧ t.jumped = true ∧
        t.regs.get Reg.lr = s.readReg Reg.pc - 4 ∧
        (∀ i, i ≠ Reg.pc → i ≠ Reg.lr → t.regs.get i = s.regs.get i) ∧ t = { s with regs := t.regs, jumped := true }) ∧
    (∀ c : Cond, condPassed c s.cpsr = false → exec (.b c offset) s = .next s ∧ exec (.bl c offset) s = .next s) ∧
    ∀ h : Bool, ∃ t, exec (.blx h offset) s = .next t ∧ t.regs.get Reg.pc = target (if h then 2 else 0) ∧
      t.jumped = true ∧ t.regs.get Reg.lr = s.readReg Reg.pc - 4 ∧ flagT t.cpsr = true ∧
      (∀ k, k ≠ 5 → t.cpsr.getLsbD k = s.cpsr.getLsbD k) ∧
      (∀ i, i ≠ Reg.pc → i ≠ Reg.lr → t.regs.get i = s.regs.get i) ∧
      t = { s with regs := t.regs, jumped := true, cpsr := t.cpsr }

/-! ## Coprocessors and exceptions -/

/-- R251 and R272: CDP, MCR and MRC of an empty slot or an unregistered id, and NV words other than BLX (the spec's decision
D7), take the Undefined exception and do nothing else. The id is that of R41 and R250 (the positions of its fields are
the spec's general knowledge G6). -/
def Obligations.UndefinedExceptionCauses : Prop :=
  (∀ d : CpOperand, (cpId d).toNat = idNumber d.crn.toNat d.opcode1.toNat d.crm.toNat d.opcode2.toNat) ∧
  (∀ d : CdpOperand, (cdpId d).toNat = idNumber d.crn.toNat d.opcode1.toNat d.crm.toNat d.opcode2.toNat) ∧
  ∀ s : State, exec .undefinedNv s = .next (undefinedEntry s) ∧
    ∀ c : Cond, condPassed c s.cpsr = true →
      (∀ d : CdpOperand, validCReg d.cp (cdpId d) s = false → exec (.cdp c d) s = .next (undefinedEntry s)) ∧
      ∀ d : CpOperand, validCReg d.cp (cpId d) s = false →
        exec (.mcr c d) s = .next (undefinedEntry s) ∧ exec (.mrc c d) s = .next (undefinedEntry s)

/-- MCR of a registered id (R253; the direction and the field positions are the spec's general knowledge G6): the register
under the id of R41 and R250 gets x[Rd], every other coprocessor register and everything else stays. -/
def Obligations.McrWritesTheRegister : Prop :=
  (∀ d : CpOperand, (cpId d).toNat = idNumber d.crn.toNat d.opcode1.toNat d.crm.toNat d.opcode2.toNat) ∧
  ∀ (c : Cond) (d : CpOperand) (s : State), condPassed c s.cpsr = true →
    validCReg d.cp (cpId d) s = true →
    ∃ t, exec (.mcr c d) s = .next t ∧ getCReg d.cp (cpId d) t = some (s.readReg d.rd) ∧
      (∀ cp id, ¬(cp = d.cp ∧ id = cpId d) → getCReg cp id t = getCReg cp id s) ∧
      t = { s with coproc := t.coproc }

/-- MRC of a registered id (R254, R255): Rd not 15 gets the value; Rd = 15 changes only CPSR[31:28], by MRC_R15_FLAGS, whose
default is the value's top four bits (the spec's decision D22; any other function is free, log 9). The id is that of R41 and
R250. -/
def Obligations.MrcReadsTheRegister : Prop :=
  (∀ d : CpOperand, (cpId d).toNat = idNumber d.crn.toNat d.opcode1.toNat d.crm.toNat d.opcode2.toNat) ∧
  ∀ (c : Cond) (d : CpOperand) (s : State) (v : Word), condPassed c s.cpsr = true →
    getCReg d.cp (cpId d) s = some v →
    (d.rd ≠ Reg.pc → exec (.mrc c d) s = .next (s.writeReg d.rd v)) ∧
    (d.rd = Reg.pc → ∃ t, exec (.mrc c d) s = .next t ∧ t = { s with cpsr := t.cpsr } ∧
      (∀ k, k < 28 → t.cpsr.getLsbD k = s.cpsr.getLsbD k) ∧
      (s.cfg.mrcFlags = .coprocTop → ∀ k, 28 ≤ k → t.cpsr.getLsbD k = v.getLsbD k) ∧
      (s.cfg.mrcFlags = .merge → ∀ k, k < 4 → t.cpsr.getLsbD (28 + k) = (Config.mrcMerge s.spsr v).getLsbD k))

/-- CDP of a registered id (R252, the spec's decision D23): no effect by default; under any other CDP_EFFECT only the values
of that slot's bank change, each to the free function's value, and the registered ids stay (log 10). The id is that of
R41 and R250, of which CRd is no part. -/
def Obligations.CdpEffect : Prop :=
  (∀ d : CdpOperand, (cdpId d).toNat = idNumber d.crn.toNat d.opcode1.toNat d.crm.toNat d.opcode2.toNat) ∧
  ∀ (c : Cond) (d : CdpOperand) (s : State), condPassed c s.cpsr = true → validCReg d.cp (cdpId d) s = true →
    (s.cfg.cdp = .identity → exec (.cdp c d) s = .next s) ∧
    (s.cfg.cdp = .other → ∃ t b, exec (.cdp c d) s = .next t ∧ s.coproc.get d.cp = some b ∧
      (∀ id, getCReg d.cp id t = if (bankGet b id).isSome then
        some (Config.cdpValue d.cp d.opcode1 d.crd d.crn d.crm d.opcode2 b id) else none) ∧
      (∀ cp, cp ≠ d.cp → t.coproc.get cp = s.coproc.get cp) ∧ t = { s with coproc := t.coproc })

/-! ## Order of work, classes that stop -/

/-- R160: an instruction whose condition fails changes nothing, unless its class is fatal (the spec's decision D17 puts the
classification first). -/
def Obligations.FailedConditionChangesNothing : Prop :=
  ∀ (i : Instr) (c : Cond) (s : State), i.cond? = some c → condPassed c s.cpsr = false →
    isUnimplemented i = false → unsupportedNow i s = false → exec i s = .next s

/-- R206, R270, R271, R305: the three unimplemented spaces are Fatal(NotImplemented) in every state, whatever the condition
and the ERROR_POLICY. -/
def Obligations.UnimplementedSpacesAreFatal : Prop :=
  ∀ (i : Instr) (s : State), isUnimplemented i = true → exec i s = .fault .notImplemented

/-- R189, R223, R256, R257 and, under UNLISTED_INSTRUCTIONS = refuse, R171, R181, R186, R204, R205 (the spec's decisions D3,
D4, D9, D19 to D21): Fatal(UnsupportedEncoding) under ERROR_POLICY = abort; under continue the instruction completes with
no effect (R306). -/
def Obligations.UnsupportedEncodingsFollowThePolicy : Prop :=
  ∀ (i : Instr) (s : State), unsupportedNow i s = true →
    (s.cfg.errorPolicy = .abort → exec i s = .fault .unsupportedEncoding) ∧
    (s.cfg.errorPolicy = .carryOn → exec i s = .next s)

/-! ## The step -/

/-- R320: where the core is ready, a step runs `nextPC`, reads the word at the stored PC and executes the instruction it
decodes to. Over RAM that word is made of the four bytes of the aligned word that contains the address (R82). -/
def Obligations.StepRunsTheDecodedInstruction : Prop :=
  ∀ s : State, Ready s →
    (∀ w u, readWord s.nextFetchAddr (nextPC s) = .ok (w, u) → step s = exec (decode w) u) ∧
    (RamWordAt s.nextFetchAddr s → step s = exec (decode (ramWord s.nextFetchAddr s)) (nextPC s))

/-- R313, its items 1 to 5 (the spec's decisions D5, D30): a core that is not running does nothing; a halt request only
sets the stop status; a set T bit under THUMB_POLICY = refuse is Fatal(ThumbState) before any fetch; a fetch that fails is
that fault. -/
def Obligations.StepStopsInTheGivenOrder : Prop :=
  ∀ s : State,
    (s.stop ≠ .running → step s = .next s) ∧
    (s.stop = .running → s.haltReq = true → step s = .next { s with stop := .halted }) ∧
    (s.stop = .running → s.haltReq = false → flagT s.cpsr = true → s.cfg.thumbPolicy = .refuse →
      step s = .fault .thumbState) ∧
    ∀ e, Ready s → readWord s.nextFetchAddr (nextPC s) = .error e → step s = .fault e

/-! ## Whole-machine rules -/

/-- R36, R39 and R318: no instruction writes SPSR but MSR with R = 1; every instruction that writes CPSR is one of R39's
list; every instruction that writes the mode field is MSR CPSR with the c field or the restore, so no exception entry is. -/
def Obligations.OnlyListedInstructionsWriteStatusRegisters : Prop :=
  ∀ (i : Instr) (s t : State), exec i s = .next t →
    (t.spsr ≠ s.spsr → ∃ c mask, (∃ rm, i = .msrReg c true mask rm) ∨ ∃ op, i = .msrImm c true mask op) ∧
    (t.cpsr ≠ s.cpsr → mayWriteCpsr i = true) ∧ (fieldM t.cpsr ≠ fieldM s.cpsr → mayWriteMode i = true)

/-- R27 and R245: the stored PC changes only together with jumped, no instruction clears jumped, and only the listed
writers change the stored PC or set jumped, also where jumped was set before (U3 and U9 under the parameter of log 11
among them). -/
def Obligations.OnlyListedInstructionsJump : Prop :=
  ∀ (i : Instr) (s t : State), exec i s = .next t →
    (s.jumped = true → t.jumped = true) ∧ (t.regs.get Reg.pc ≠ s.regs.get Reg.pc → t.jumped = true) ∧
    (t.regs.get Reg.pc ≠ s.regs.get Reg.pc → mayJump i = true) ∧ (t.jumped ≠ s.jumped → mayJump i = true)

/-- RAM changes only by STR, STRB and STM (R203, R205, R222); coprocessor registers only by MCR and, under another CDP_EFFECT
than the default, CDP (R252, R253); the stop status and the halt input by no instruction (R46, R47). -/
def Obligations.OnlyStoresAndCoprocessorWrites : Prop :=
  ∀ (i : Instr) (s t : State), exec i s = .next t →
    ((∃ a, t.byteAt a ≠ s.byteAt a) → ∃ c, (∃ m, i = .str c m) ∨ (∃ m, i = .strb c m) ∨ ∃ m, i = .stm c m) ∧
    (t.coproc ≠ s.coproc → ∃ c, (∃ d, i = .mcr c d) ∨ ∃ d, i = .cdp c d ∧ s.cfg.cdp = .other) ∧
    t.stop = s.stop ∧ t.haltReq = s.haltReq

/-- R40, R44, R47: no step changes the configuration, the set of registered coprocessor ids or the halt input. -/
def Obligations.StepKeepsConfigurationAndIds : Prop :=
  ∀ s t : State, step s = .next t →
    t.cfg = s.cfg ∧ registeredIds t = registeredIds s ∧ t.haltReq = s.haltReq

/-- The invariant of `WfState` (R40, R63, R64, R79, log 7): every step that answers a next state keeps it. -/
def Obligations.StepKeepsTheInvariant : Prop :=
  ∀ s t : State, WfState s → step s = .next t → WfState t

/-- The state after reset meets the invariant; its table, banks and memory are the model's choices (log 2, 3, 7). -/
def Obligations.ResetMeetsTheInvariant : Prop :=
  WfState State.reset

/-- R316, R317 (the spec's decision D18): CPSR[27:0], the mode field among them, has no effect on what an instruction does
to anything else, but for MRS of CPSR, which reads it. -/
def Obligations.ModeHasNoEffectOnExecution : Prop :=
  ∀ (i : Instr) (s : State) (w : Word), (∀ c rd, i ≠ .mrs c false rd) →
    (∀ k, 28 ≤ k → w.getLsbD k = s.cpsr.getLsbD k) →
    AgreeButLowCpsr (exec i s) (exec i { s with cpsr := w })

/-- R321: DISASSEMBLY_MODE changes no result of a step. -/
def Obligations.DisassemblyModeHasNoEffect : Prop :=
  ∀ (s : State) (on : Bool), step (withDisassembly on s) = mapNext (withDisassembly on) (step s)

/-- R304, R46 and R344 (the spec's decision D5): a Fatal or Refuse sets the stop status to its kind, whether a step raises it
or a host access to the bus, and the core then does nothing at a step. An access that succeeds answers the router's value
and state. The host's write8, write32 and write64 are router writes of their width. The rest of the state after a stop is
unspecified (R310, log 13: a free value), but for what no step changes (`StoppedFrom`). That a failing host access overwrites
the status `halted` too is the model's choice (log 26). -/
def Obligations.FatalErrorsStopTheCore : Prop :=
  (∀ (s : State) (k : Fault), step s = .fault k → StoppedFrom s (hostStep s) (.stoppedFault k)) ∧
  (∀ (s : State) (q : Refusal), step s = .refused q → StoppedFrom s (hostStep s) (.stoppedRefusal q)) ∧
  (∀ s t : State, step s = .next t → hostStep s = t) ∧
  (∀ (a : Addr) (d : Nat) (s : State),
    (∀ x t, busRead a d s = .ok (x, t) → hostRead a d s = (.ok x, t)) ∧
    ∀ k, busRead a d s = .error k → ∃ t, hostRead a d s = (.error k, t) ∧ StoppedFrom s t (.stoppedFault k)) ∧
  (∀ (a : Addr) (d : Nat) (v : BitVec 64) (s : State),
    (∀ t, busWrite a d v s = .ok t → hostWrite a d v s = (.ok (), t)) ∧
    ∀ k, busWrite a d v s = .error k → ∃ t, hostWrite a d v s = (.error k, t) ∧ StoppedFrom s t (.stoppedFault k)) ∧
  ∀ (a : Addr) (s : State),
    (∀ v, hostWrite8 a v s = hostWrite a 8 (v.setWidth 64) s) ∧
    (∀ v, hostWrite32 a v s = hostWrite a 32 (v.setWidth 64) s) ∧ ∀ v, hostWrite64 a v s = hostWrite a 64 v s
end

