-- ==== Sys2Proof/Laws/Memory.lean ====
section
/-! SUPPORT. Keyed cells and RAM bytes: read after write, frame, and that every operation keeps the canonical form. -/

namespace Sys2Proof.Machine

section Cells

variable {α : Type} [DecidableEq α] {d : α}

omit [DecidableEq α] in
/-- A key below all those listed reads as the default. -/
theorem cellGet_of_all_gt {m : List (Nat × α)} {a : Nat} (h : m.all (fun e => decide (a < e.1)) = true) :
    cellGet d m a = d := by
  induction m with
  | nil => rfl
  | cons e rest ih =>
    obtain ⟨k, x⟩ := e
    simp only [List.all_cons, Bool.and_eq_true, decide_eq_true_eq] at h
    simp only [cellGet, if_neg (by omega : ¬ k = a)]
    exact ih h.2

theorem cellsWf_cons {k : Nat} {x : α} {rest : List (Nat × α)} :
    cellsWf d ((k, x) :: rest) = true ↔
      x ≠ d ∧ rest.all (fun e => decide (k < e.1)) = true ∧ cellsWf d rest = true := by
  simp [cellsWf, and_assoc]

omit [DecidableEq α] in
theorem all_gt_of_le {m : List (Nat × α)} {a b : Nat} (hab : a ≤ b)
    (h : m.all (fun e => decide (b < e.1)) = true) : m.all (fun e => decide (a < e.1)) = true := by
  simp only [List.all_eq_true, decide_eq_true_eq] at h ⊢
  intro e he
  have := h e he
  omega

theorem cellSet_all_gt {m : List (Nat × α)} {a b : Nat} {v : α} (hab : b < a)
    (h : m.all (fun e => decide (b < e.1)) = true) :
    (cellSet d m a v).all (fun e => decide (b < e.1)) = true := by
  induction m with
  | nil => simp only [cellSet]; split <;> simp [hab]
  | cons e rest ih =>
    obtain ⟨k, x⟩ := e
    have h' := h
    simp only [List.all_cons, Bool.and_eq_true, decide_eq_true_eq] at h'
    simp only [cellSet]
    split
    · split
      · exact h
      · simpa [hab] using h'
    · split
      · split
        · exact h'.2
        · simpa [hab] using h'.2
      · simpa [h'.1] using ih h'.2

/-- A write keeps the canonical form. -/
theorem cellSet_wf {m : List (Nat × α)} (a : Nat) (v : α) (h : cellsWf d m = true) :
    cellsWf d (cellSet d m a v) = true := by
  induction m with
  | nil => simp only [cellSet]; split <;> simp_all [cellsWf]
  | cons e rest ih =>
    obtain ⟨k, x⟩ := e
    have h' := cellsWf_cons.1 h
    simp only [cellSet]
    split
    · split
      · exact h
      · rename_i hak hv
        refine cellsWf_cons.2 ⟨hv, ?_, h⟩
        simpa [hak] using all_gt_of_le (Nat.le_of_lt hak) h'.2.1
    · split
      · rename_i hak
        subst hak
        split
        · exact h'.2.2
        · rename_i hv
          exact cellsWf_cons.2 ⟨hv, h'.2.1, h'.2.2⟩
      · rename_i h1 h2
        exact cellsWf_cons.2 ⟨h'.1, cellSet_all_gt (by omega) h'.2.1, ih h'.2.2⟩

/-- Read after write, at the same key and at another. -/
theorem cellGet_cellSet {m : List (Nat × α)} (h : cellsWf d m = true) (a : Nat) (v : α) (b : Nat) :
    cellGet d (cellSet d m a v) b = if b = a then v else cellGet d m b := by
  induction m with
  | nil =>
    by_cases hv : v = d
    · simp [cellSet, cellGet, hv]
    · by_cases hb : b = a
      · simp [cellSet, cellGet, hv, hb]
      · simp [cellSet, cellGet, hv, hb, Ne.symm hb]
  | cons e rest ih =>
    obtain ⟨k, x⟩ := e
    have h' := cellsWf_cons.1 h
    simp only [cellSet]
    split
    · rename_i hak
      split
      · rename_i hv
        split
        · rename_i hb
          subst hb hv
          simp only [cellGet, if_neg (by omega : ¬ k = b)]
          exact cellGet_of_all_gt (all_gt_of_le (Nat.le_of_lt hak) h'.2.1)
        · rfl
      · simp only [cellGet, eq_comm (a := a)]
    · split
      · rename_i hak
        subst hak
        split
        · rename_i hv
          split
          · rename_i hb
            subst hb hv
            exact cellGet_of_all_gt h'.2.1
          · rename_i hb
            simp only [cellGet]
            rw [if_neg (fun h => hb h.symm)]
        · simp only [cellGet, eq_comm (a := a)]
          split <;> rfl
      · rename_i h1 h2
        simp only [cellGet, ih h'.2.2]
        by_cases hk : k = b
        · subst hk; simp [Ne.symm h2]
        · simp [hk]

end Cells

/-! ## RAM bytes -/

theorem writeByte_wf {m : List Host.Cell} (h : Memory.wf m = true) (a : Nat) (v : Byte) :
    Memory.wf (writeByte m a v) = true :=
  cellSet_wf a v h

theorem cellsOf_wf {α : Type} [DecidableEq α] (d : α) (l : List (Nat × α)) : cellsWf d (cellsOf d l) = true := by
  have h : ∀ (l : List (Nat × α)) (m : List (Nat × α)), cellsWf d m = true →
      cellsWf d (l.foldl (fun m e => cellSet d m e.1 e.2) m) = true := by
    intro l
    induction l with
    | nil => exact fun _ h => h
    | cons e rest ih => exact fun m h => ih _ (cellSet_wf _ _ h)
  exact h l [] rfl

theorem writeBytes_wf {m : List Host.Cell} (h : Memory.wf m = true) (a n v : Nat) :
    Memory.wf (writeBytes m a n v) = true := by
  induction n generalizing m a v with
  | zero => exact h
  | succ n ih => exact ih (writeByte_wf h a _) (a + 1) (v / 256)

theorem readByte_writeByte {m : List Host.Cell} (h : Memory.wf m = true) (a : Nat) (v : Byte) (b : Nat) :
    readByte (writeByte m a v) b = if b = a then v else readByte m b :=
  cellGet_cellSet h a v b

/-- A write of `n` bytes leaves byte `k` of the value in place `k` and every other byte alone. -/
theorem readByte_writeBytes {m : List Host.Cell} (h : Memory.wf m = true) (a n v b : Nat) :
    readByte (writeBytes m a n v) b =
      if a ≤ b ∧ b < a + n then BitVec.ofNat 8 (v / 256 ^ (b - a)) else readByte m b := by
  induction n generalizing m a v with
  | zero => simp only [writeBytes]; rw [if_neg (by omega)]
  | succ n ih =>
    simp only [writeBytes]
    rw [ih (writeByte_wf h a _), readByte_writeByte h]
    by_cases hb : b = a
    · subst hb
      rw [if_neg (by omega), if_pos rfl, if_pos (by omega)]
      simp
    · by_cases hin : a + 1 ≤ b ∧ b < a + 1 + n
      · rw [if_pos hin, if_pos (by omega), Nat.div_div_eq_div_mul, ← Nat.pow_succ']
        congr 3
        omega
      · rw [if_neg hin, if_neg hb, if_neg (by omega)]

theorem readBytes_lt (m : List Host.Cell) (a n : Nat) : readBytes m a n < 256 ^ n := by
  induction n generalizing a with
  | zero => simp [readBytes]
  | succ n ih =>
    have h1 := ih (a + 1)
    have h2 := (readByte m a).isLt
    simp only [readBytes, Nat.pow_succ]
    omega

/-- Byte `k` of the assembled value. -/
theorem readBytes_byte (m : List Host.Cell) (a n k : Nat) (hk : k < n) :
    readBytes m a n / 256 ^ k % 256 = (readByte m (a + k)).toNat := by
  induction n generalizing a k with
  | zero => omega
  | succ n ih =>
    have h2 := (readByte m a).isLt
    simp only [readBytes]
    cases k with
    | zero => simp; omega
    | succ k =>
      rw [Nat.pow_succ', ← Nat.div_div_eq_div_mul]
      rw [show ((readByte m a).toNat + 256 * readBytes m (a + 1) n) / 256 = readBytes m (a + 1) n by omega,
        ih (a + 1) k (by omega)]
      congr 2
      omega

/-- Equal bytes assemble to equal values. -/
theorem readBytes_congr {m m' : List Host.Cell} {a n : Nat}
    (h : ∀ k, k < n → readByte m (a + k) = readByte m' (a + k)) : readBytes m a n = readBytes m' a n := by
  induction n generalizing a with
  | zero => rfl
  | succ n ih =>
    have h0 := h 0 (by omega)
    simp only [Nat.add_zero] at h0
    simp only [readBytes, h0]
    rw [ih (fun k hk => by have := h (k + 1) (by omega); rwa [show a + (k + 1) = a + 1 + k by omega] at this)]

/-- A part of an assembled value is the value its bytes assemble to. -/
theorem readBytes_part (m : List Host.Cell) (a n k j : Nat) (h : k + j ≤ n) :
    readBytes m a n / 256 ^ k % 256 ^ j = readBytes m (a + k) j := by
  induction j generalizing k with
  | zero => simp [readBytes, Nat.mod_one]
  | succ j ih =>
    simp only [readBytes]
    rw [Nat.pow_succ', Nat.mod_mul, readBytes_byte m a n k (by omega), Nat.div_div_eq_div_mul,
      ← Nat.pow_succ, ih (k + 1) (by omega)]
    rfl

end Sys2Proof.Machine
end

