-- ==== Sys2Proof/Laws/State.lean ====
section
/-! SUPPORT. One lemma per field for each named update of State, and the register file's read after write. -/

namespace Sys2Proof.Machine

/-! ### writeReg -/

@[simp] theorem writeReg_regs (s : State) (i : Reg) (v : Word) : (s.writeReg i v).regs = s.regs.set i.val v i.isLt := rfl
@[simp] theorem writeReg_jumped (s : State) (i : Reg) (v : Word) : (s.writeReg i v).jumped = (s.jumped || decide (i = Reg.pc)) := rfl
@[simp] theorem writeReg_cpsr (s : State) (i : Reg) (v : Word) : (s.writeReg i v).cpsr = s.cpsr := rfl
@[simp] theorem writeReg_spsr (s : State) (i : Reg) (v : Word) : (s.writeReg i v).spsr = s.spsr := rfl
@[simp] theorem writeReg_coproc (s : State) (i : Reg) (v : Word) : (s.writeReg i v).coproc = s.coproc := rfl
@[simp] theorem writeReg_mem (s : State) (i : Reg) (v : Word) : (s.writeReg i v).mem = s.mem := rfl
@[simp] theorem writeReg_periph (s : State) (i : Reg) (v : Word) : (s.writeReg i v).periph = s.periph := rfl
@[simp] theorem writeReg_busTick (s : State) (i : Reg) (v : Word) : (s.writeReg i v).busTick = s.busTick := rfl
@[simp] theorem writeReg_stop (s : State) (i : Reg) (v : Word) : (s.writeReg i v).stop = s.stop := rfl
@[simp] theorem writeReg_haltReq (s : State) (i : Reg) (v : Word) : (s.writeReg i v).haltReq = s.haltReq := rfl
@[simp] theorem writeReg_cfg (s : State) (i : Reg) (v : Word) : (s.writeReg i v).cfg = s.cfg := rfl

/-! ### nextPC -/

@[simp] theorem nextPC_regs (s : State) : (nextPC s).regs = s.regs.set 15 s.nextFetchAddr := rfl
@[simp] theorem nextPC_jumped (s : State) : (nextPC s).jumped = false := rfl
@[simp] theorem nextPC_cpsr (s : State) : (nextPC s).cpsr = s.cpsr := rfl
@[simp] theorem nextPC_spsr (s : State) : (nextPC s).spsr = s.spsr := rfl
@[simp] theorem nextPC_coproc (s : State) : (nextPC s).coproc = s.coproc := rfl
@[simp] theorem nextPC_mem (s : State) : (nextPC s).mem = s.mem := rfl
@[simp] theorem nextPC_periph (s : State) : (nextPC s).periph = s.periph := rfl
@[simp] theorem nextPC_busTick (s : State) : (nextPC s).busTick = s.busTick := rfl
@[simp] theorem nextPC_stop (s : State) : (nextPC s).stop = s.stop := rfl
@[simp] theorem nextPC_haltReq (s : State) : (nextPC s).haltReq = s.haltReq := rfl
@[simp] theorem nextPC_cfg (s : State) : (nextPC s).cfg = s.cfg := rfl

/-! ### restoreStatus -/

@[simp] theorem restoreStatus_regs (s : State) : (restoreStatus s).regs = s.regs := rfl
@[simp] theorem restoreStatus_jumped (s : State) : (restoreStatus s).jumped = s.jumped := rfl
@[simp] theorem restoreStatus_cpsr (s : State) : (restoreStatus s).cpsr = s.spsr := rfl
@[simp] theorem restoreStatus_spsr (s : State) : (restoreStatus s).spsr = s.spsr := rfl
@[simp] theorem restoreStatus_coproc (s : State) : (restoreStatus s).coproc = s.coproc := rfl
@[simp] theorem restoreStatus_mem (s : State) : (restoreStatus s).mem = s.mem := rfl
@[simp] theorem restoreStatus_periph (s : State) : (restoreStatus s).periph = s.periph := rfl
@[simp] theorem restoreStatus_busTick (s : State) : (restoreStatus s).busTick = s.busTick := rfl
@[simp] theorem restoreStatus_stop (s : State) : (restoreStatus s).stop = s.stop := rfl
@[simp] theorem restoreStatus_haltReq (s : State) : (restoreStatus s).haltReq = s.haltReq := rfl
@[simp] theorem restoreStatus_cfg (s : State) : (restoreStatus s).cfg = s.cfg := rfl

/-! ### setBank -/

@[simp] theorem setBank_regs (cp : Fin 16) (b : Bank) (s : State) : (setBank cp b s).regs = s.regs := rfl
@[simp] theorem setBank_jumped (cp : Fin 16) (b : Bank) (s : State) : (setBank cp b s).jumped = s.jumped := rfl
@[simp] theorem setBank_cpsr (cp : Fin 16) (b : Bank) (s : State) : (setBank cp b s).cpsr = s.cpsr := rfl
@[simp] theorem setBank_spsr (cp : Fin 16) (b : Bank) (s : State) : (setBank cp b s).spsr = s.spsr := rfl
@[simp] theorem setBank_coproc (cp : Fin 16) (b : Bank) (s : State) : (setBank cp b s).coproc = s.coproc.set cp.val (some b) cp.isLt := rfl
@[simp] theorem setBank_mem (cp : Fin 16) (b : Bank) (s : State) : (setBank cp b s).mem = s.mem := rfl
@[simp] theorem setBank_periph (cp : Fin 16) (b : Bank) (s : State) : (setBank cp b s).periph = s.periph := rfl
@[simp] theorem setBank_busTick (cp : Fin 16) (b : Bank) (s : State) : (setBank cp b s).busTick = s.busTick := rfl
@[simp] theorem setBank_stop (cp : Fin 16) (b : Bank) (s : State) : (setBank cp b s).stop = s.stop := rfl
@[simp] theorem setBank_haltReq (cp : Fin 16) (b : Bank) (s : State) : (setBank cp b s).haltReq = s.haltReq := rfl
@[simp] theorem setBank_cfg (cp : Fin 16) (b : Bank) (s : State) : (setBank cp b s).cfg = s.cfg := rfl

/-! ### undefinedEntry -/

@[simp] theorem undefinedEntry_regs (s : State) : (undefinedEntry s).regs = s.regs.set 15 4 := rfl
@[simp] theorem undefinedEntry_jumped (s : State) : (undefinedEntry s).jumped = (s.jumped || true) := rfl
@[simp] theorem undefinedEntry_cpsr (s : State) : (undefinedEntry s).cpsr = s.cpsr := rfl
@[simp] theorem undefinedEntry_spsr (s : State) : (undefinedEntry s).spsr = s.spsr := rfl
@[simp] theorem undefinedEntry_coproc (s : State) : (undefinedEntry s).coproc = s.coproc := rfl
@[simp] theorem undefinedEntry_mem (s : State) : (undefinedEntry s).mem = s.mem := rfl
@[simp] theorem undefinedEntry_periph (s : State) : (undefinedEntry s).periph = s.periph := rfl
@[simp] theorem undefinedEntry_busTick (s : State) : (undefinedEntry s).busTick = s.busTick := rfl
@[simp] theorem undefinedEntry_stop (s : State) : (undefinedEntry s).stop = s.stop := rfl
@[simp] theorem undefinedEntry_haltReq (s : State) : (undefinedEntry s).haltReq = s.haltReq := rfl
@[simp] theorem undefinedEntry_cfg (s : State) : (undefinedEntry s).cfg = s.cfg := rfl

/-! ### setStop -/

@[simp] theorem setStop_stop (c : StopStatus) (s : State) : (setStop c s).stop = c := rfl
@[simp] theorem setStop_regs (c : StopStatus) (s : State) : (setStop c s).regs = s.regs := rfl
@[simp] theorem setStop_jumped (c : StopStatus) (s : State) : (setStop c s).jumped = s.jumped := rfl
@[simp] theorem setStop_cpsr (c : StopStatus) (s : State) : (setStop c s).cpsr = s.cpsr := rfl
@[simp] theorem setStop_spsr (c : StopStatus) (s : State) : (setStop c s).spsr = s.spsr := rfl
@[simp] theorem setStop_coproc (c : StopStatus) (s : State) : (setStop c s).coproc = s.coproc := rfl
@[simp] theorem setStop_mem (c : StopStatus) (s : State) : (setStop c s).mem = s.mem := rfl
@[simp] theorem setStop_periph (c : StopStatus) (s : State) : (setStop c s).periph = s.periph := rfl
@[simp] theorem setStop_busTick (c : StopStatus) (s : State) : (setStop c s).busTick = s.busTick := rfl
@[simp] theorem setStop_haltReq (c : StopStatus) (s : State) : (setStop c s).haltReq = s.haltReq := rfl
@[simp] theorem setStop_cfg (c : StopStatus) (s : State) : (setStop c s).cfg = s.cfg := rfl

/-! ### unspecifiedRest -/

@[simp] theorem unspecifiedRest_regs (e : StopEvent) (s : State) : (unspecifiedRest e s).regs = (Config.afterStop e s).regs := rfl
@[simp] theorem unspecifiedRest_jumped (e : StopEvent) (s : State) : (unspecifiedRest e s).jumped = (Config.afterStop e s).jumped := rfl
@[simp] theorem unspecifiedRest_cpsr (e : StopEvent) (s : State) : (unspecifiedRest e s).cpsr = (Config.afterStop e s).cpsr := rfl
@[simp] theorem unspecifiedRest_spsr (e : StopEvent) (s : State) : (unspecifiedRest e s).spsr = (Config.afterStop e s).spsr := rfl
@[simp] theorem unspecifiedRest_coproc (e : StopEvent) (s : State) : (unspecifiedRest e s).coproc = unspecifiedCoproc e s := rfl
@[simp] theorem unspecifiedRest_mem (e : StopEvent) (s : State) : (unspecifiedRest e s).mem = cellsOf ramDefault (Config.afterStop e s).mem := rfl
@[simp] theorem unspecifiedRest_periph (e : StopEvent) (s : State) : (unspecifiedRest e s).periph = cellsOf periphDefault (Config.afterStop e s).periph := rfl
@[simp] theorem unspecifiedRest_busTick (e : StopEvent) (s : State) : (unspecifiedRest e s).busTick = (Config.afterStop e s).busTick := rfl
@[simp] theorem unspecifiedRest_stop (e : StopEvent) (s : State) : (unspecifiedRest e s).stop = s.stop := rfl
@[simp] theorem unspecifiedRest_haltReq (e : StopEvent) (s : State) : (unspecifiedRest e s).haltReq = s.haltReq := rfl
@[simp] theorem unspecifiedRest_cfg (e : StopEvent) (s : State) : (unspecifiedRest e s).cfg = s.cfg := rfl

/-! ### stopCore -/

@[simp] theorem stopCore_regs (e : StopEvent) (c : StopStatus) (s : State) : (stopCore e c s).regs = (Config.afterStop e s).regs := rfl
@[simp] theorem stopCore_jumped (e : StopEvent) (c : StopStatus) (s : State) : (stopCore e c s).jumped = (Config.afterStop e s).jumped := rfl
@[simp] theorem stopCore_cpsr (e : StopEvent) (c : StopStatus) (s : State) : (stopCore e c s).cpsr = (Config.afterStop e s).cpsr := rfl
@[simp] theorem stopCore_spsr (e : StopEvent) (c : StopStatus) (s : State) : (stopCore e c s).spsr = (Config.afterStop e s).spsr := rfl
@[simp] theorem stopCore_coproc (e : StopEvent) (c : StopStatus) (s : State) : (stopCore e c s).coproc = unspecifiedCoproc e s := rfl
@[simp] theorem stopCore_mem (e : StopEvent) (c : StopStatus) (s : State) : (stopCore e c s).mem = cellsOf ramDefault (Config.afterStop e s).mem := rfl
@[simp] theorem stopCore_periph (e : StopEvent) (c : StopStatus) (s : State) : (stopCore e c s).periph = cellsOf periphDefault (Config.afterStop e s).periph := rfl
@[simp] theorem stopCore_busTick (e : StopEvent) (c : StopStatus) (s : State) : (stopCore e c s).busTick = (Config.afterStop e s).busTick := rfl
@[simp] theorem stopCore_stop (e : StopEvent) (c : StopStatus) (s : State) : (stopCore e c s).stop = c := rfl
@[simp] theorem stopCore_haltReq (e : StopEvent) (c : StopStatus) (s : State) : (stopCore e c s).haltReq = s.haltReq := rfl
@[simp] theorem stopCore_cfg (e : StopEvent) (c : StopStatus) (s : State) : (stopCore e c s).cfg = s.cfg := rfl

/-! ### saveReturn -/

@[simp] theorem saveReturn_regs (s : State) : (saveReturn s).regs = s.regs.set 14 (s.readReg Reg.pc - 4) := rfl
@[simp] theorem saveReturn_jumped (s : State) : (saveReturn s).jumped = (s.jumped || false) := rfl
@[simp] theorem saveReturn_cpsr (s : State) : (saveReturn s).cpsr = s.cpsr := rfl
@[simp] theorem saveReturn_spsr (s : State) : (saveReturn s).spsr = s.spsr := rfl
@[simp] theorem saveReturn_coproc (s : State) : (saveReturn s).coproc = s.coproc := rfl
@[simp] theorem saveReturn_mem (s : State) : (saveReturn s).mem = s.mem := rfl
@[simp] theorem saveReturn_periph (s : State) : (saveReturn s).periph = s.periph := rfl
@[simp] theorem saveReturn_busTick (s : State) : (saveReturn s).busTick = s.busTick := rfl
@[simp] theorem saveReturn_stop (s : State) : (saveReturn s).stop = s.stop := rfl
@[simp] theorem saveReturn_haltReq (s : State) : (saveReturn s).haltReq = s.haltReq := rfl
@[simp] theorem saveReturn_cfg (s : State) : (saveReturn s).cfg = s.cfg := rfl

/-! ### branchBy -/

@[simp] theorem branchBy_regs (o : Word) (s : State) : (branchBy o s).regs = s.regs.set 15 (s.readReg Reg.pc + o) := rfl
@[simp] theorem branchBy_jumped (o : Word) (s : State) : (branchBy o s).jumped = (s.jumped || true) := rfl
@[simp] theorem branchBy_cpsr (o : Word) (s : State) : (branchBy o s).cpsr = s.cpsr := rfl
@[simp] theorem branchBy_spsr (o : Word) (s : State) : (branchBy o s).spsr = s.spsr := rfl
@[simp] theorem branchBy_coproc (o : Word) (s : State) : (branchBy o s).coproc = s.coproc := rfl
@[simp] theorem branchBy_mem (o : Word) (s : State) : (branchBy o s).mem = s.mem := rfl
@[simp] theorem branchBy_periph (o : Word) (s : State) : (branchBy o s).periph = s.periph := rfl
@[simp] theorem branchBy_busTick (o : Word) (s : State) : (branchBy o s).busTick = s.busTick := rfl
@[simp] theorem branchBy_stop (o : Word) (s : State) : (branchBy o s).stop = s.stop := rfl
@[simp] theorem branchBy_haltReq (o : Word) (s : State) : (branchBy o s).haltReq = s.haltReq := rfl
@[simp] theorem branchBy_cfg (o : Word) (s : State) : (branchBy o s).cfg = s.cfg := rfl

/-! ### writePcInterworking -/

@[simp] theorem writePcInterworking_regs (v : Word) (s : State) : (writePcInterworking v s).regs = s.regs.set 15 (v &&& 0xfffffffe) := rfl
@[simp] theorem writePcInterworking_jumped (v : Word) (s : State) : (writePcInterworking v s).jumped = (s.jumped || true) := rfl
@[simp] theorem writePcInterworking_cpsr (v : Word) (s : State) : (writePcInterworking v s).cpsr = withT s.cpsr (v.getLsbD 0) := rfl
@[simp] theorem writePcInterworking_spsr (v : Word) (s : State) : (writePcInterworking v s).spsr = s.spsr := rfl
@[simp] theorem writePcInterworking_coproc (v : Word) (s : State) : (writePcInterworking v s).coproc = s.coproc := rfl
@[simp] theorem writePcInterworking_mem (v : Word) (s : State) : (writePcInterworking v s).mem = s.mem := rfl
@[simp] theorem writePcInterworking_periph (v : Word) (s : State) : (writePcInterworking v s).periph = s.periph := rfl
@[simp] theorem writePcInterworking_busTick (v : Word) (s : State) : (writePcInterworking v s).busTick = s.busTick := rfl
@[simp] theorem writePcInterworking_stop (v : Word) (s : State) : (writePcInterworking v s).stop = s.stop := rfl
@[simp] theorem writePcInterworking_haltReq (v : Word) (s : State) : (writePcInterworking v s).haltReq = s.haltReq := rfl
@[simp] theorem writePcInterworking_cfg (v : Word) (s : State) : (writePcInterworking v s).cfg = s.cfg := rfl

/-! ### withFetchWord -/

@[simp] theorem withFetchWord_regs (s : State) (n w : Nat) : (s.withFetchWord n w).regs = s.regs := rfl
@[simp] theorem withFetchWord_jumped (s : State) (n w : Nat) : (s.withFetchWord n w).jumped = s.jumped := rfl
@[simp] theorem withFetchWord_cpsr (s : State) (n w : Nat) : (s.withFetchWord n w).cpsr = s.cpsr := rfl
@[simp] theorem withFetchWord_spsr (s : State) (n w : Nat) : (s.withFetchWord n w).spsr = s.spsr := rfl
@[simp] theorem withFetchWord_coproc (s : State) (n w : Nat) : (s.withFetchWord n w).coproc = s.coproc := rfl
@[simp] theorem withFetchWord_mem (s : State) (n w : Nat) : (s.withFetchWord n w).mem = writeBytes s.mem (s.nextFetchAddr.toNat / 4 * 4) 4 (w % 2 ^ n) := rfl
@[simp] theorem withFetchWord_periph (s : State) (n w : Nat) : (s.withFetchWord n w).periph = s.periph := rfl
@[simp] theorem withFetchWord_busTick (s : State) (n w : Nat) : (s.withFetchWord n w).busTick = s.busTick := rfl
@[simp] theorem withFetchWord_stop (s : State) (n w : Nat) : (s.withFetchWord n w).stop = s.stop := rfl
@[simp] theorem withFetchWord_haltReq (s : State) (n w : Nat) : (s.withFetchWord n w).haltReq = s.haltReq := rfl
@[simp] theorem withFetchWord_cfg (s : State) (n w : Nat) : (s.withFetchWord n w).cfg = s.cfg := rfl

/-! ### hostReset -/

@[simp] theorem hostReset_regs (s : State) : (hostReset s).regs = s.regs.set 15 0 := rfl
@[simp] theorem hostReset_jumped (s : State) : (hostReset s).jumped = (s.jumped || true) := rfl
@[simp] theorem hostReset_cpsr (s : State) : (hostReset s).cpsr = withResetMode s.cpsr := rfl
@[simp] theorem hostReset_spsr (s : State) : (hostReset s).spsr = s.spsr := rfl
@[simp] theorem hostReset_coproc (s : State) : (hostReset s).coproc = s.coproc := rfl
@[simp] theorem hostReset_mem (s : State) : (hostReset s).mem = s.mem := rfl
@[simp] theorem hostReset_periph (s : State) : (hostReset s).periph = s.periph := rfl
@[simp] theorem hostReset_busTick (s : State) : (hostReset s).busTick = s.busTick := rfl
@[simp] theorem hostReset_stop (s : State) : (hostReset s).stop = .running := rfl
@[simp] theorem hostReset_haltReq (s : State) : (hostReset s).haltReq = s.haltReq := rfl
@[simp] theorem hostReset_cfg (s : State) : (hostReset s).cfg = s.cfg := rfl

/-! ### Updates that choose -/

@[simp] theorem statusWrite_regs (r : Bool) (m : BitVec 4) (v : Word) (s : State) : (statusWrite r m v s).regs = s.regs := by
  cases r <;> rfl
@[simp] theorem statusWrite_jumped (r : Bool) (m : BitVec 4) (v : Word) (s : State) : (statusWrite r m v s).jumped = s.jumped := by
  cases r <;> rfl
@[simp] theorem statusWrite_coproc (r : Bool) (m : BitVec 4) (v : Word) (s : State) : (statusWrite r m v s).coproc = s.coproc := by
  cases r <;> rfl
@[simp] theorem statusWrite_mem (r : Bool) (m : BitVec 4) (v : Word) (s : State) : (statusWrite r m v s).mem = s.mem := by
  cases r <;> rfl
@[simp] theorem statusWrite_periph (r : Bool) (m : BitVec 4) (v : Word) (s : State) : (statusWrite r m v s).periph = s.periph := by
  cases r <;> rfl
@[simp] theorem statusWrite_busTick (r : Bool) (m : BitVec 4) (v : Word) (s : State) : (statusWrite r m v s).busTick = s.busTick := by
  cases r <;> rfl
@[simp] theorem statusWrite_stop (r : Bool) (m : BitVec 4) (v : Word) (s : State) : (statusWrite r m v s).stop = s.stop := by
  cases r <;> rfl
@[simp] theorem statusWrite_haltReq (r : Bool) (m : BitVec 4) (v : Word) (s : State) : (statusWrite r m v s).haltReq = s.haltReq := by
  cases r <;> rfl
@[simp] theorem statusWrite_cfg (r : Bool) (m : BitVec 4) (v : Word) (s : State) : (statusWrite r m v s).cfg = s.cfg := by
  cases r <;> rfl

@[simp] theorem writeBackStatus_regs (sf : Bool) (rd : Reg) (r : Word) (k : FlagClass) (w : Bool) (s : State) : (writeBackStatus sf rd r k w s).regs = s.regs := by
  simp only [writeBackStatus]; split <;> [rfl; split <;> rfl]
@[simp] theorem writeBackStatus_jumped (sf : Bool) (rd : Reg) (r : Word) (k : FlagClass) (w : Bool) (s : State) : (writeBackStatus sf rd r k w s).jumped = s.jumped := by
  simp only [writeBackStatus]; split <;> [rfl; split <;> rfl]
@[simp] theorem writeBackStatus_spsr (sf : Bool) (rd : Reg) (r : Word) (k : FlagClass) (w : Bool) (s : State) : (writeBackStatus sf rd r k w s).spsr = s.spsr := by
  simp only [writeBackStatus]; split <;> [rfl; split <;> rfl]
@[simp] theorem writeBackStatus_coproc (sf : Bool) (rd : Reg) (r : Word) (k : FlagClass) (w : Bool) (s : State) : (writeBackStatus sf rd r k w s).coproc = s.coproc := by
  simp only [writeBackStatus]; split <;> [rfl; split <;> rfl]
@[simp] theorem writeBackStatus_mem (sf : Bool) (rd : Reg) (r : Word) (k : FlagClass) (w : Bool) (s : State) : (writeBackStatus sf rd r k w s).mem = s.mem := by
  simp only [writeBackStatus]; split <;> [rfl; split <;> rfl]
@[simp] theorem writeBackStatus_periph (sf : Bool) (rd : Reg) (r : Word) (k : FlagClass) (w : Bool) (s : State) : (writeBackStatus sf rd r k w s).periph = s.periph := by
  simp only [writeBackStatus]; split <;> [rfl; split <;> rfl]
@[simp] theorem writeBackStatus_busTick (sf : Bool) (rd : Reg) (r : Word) (k : FlagClass) (w : Bool) (s : State) : (writeBackStatus sf rd r k w s).busTick = s.busTick := by
  simp only [writeBackStatus]; split <;> [rfl; split <;> rfl]
@[simp] theorem writeBackStatus_stop (sf : Bool) (rd : Reg) (r : Word) (k : FlagClass) (w : Bool) (s : State) : (writeBackStatus sf rd r k w s).stop = s.stop := by
  simp only [writeBackStatus]; split <;> [rfl; split <;> rfl]
@[simp] theorem writeBackStatus_haltReq (sf : Bool) (rd : Reg) (r : Word) (k : FlagClass) (w : Bool) (s : State) : (writeBackStatus sf rd r k w s).haltReq = s.haltReq := by
  simp only [writeBackStatus]; split <;> [rfl; split <;> rfl]
@[simp] theorem writeBackStatus_cfg (sf : Bool) (rd : Reg) (r : Word) (k : FlagClass) (w : Bool) (s : State) : (writeBackStatus sf rd r k w s).cfg = s.cfg := by
  simp only [writeBackStatus]; split <;> [rfl; split <;> rfl]

@[simp] theorem setCReg_regs (cp : Fin 16) (id : BitVec 16) (v : Word) (s : State) : (setCReg cp id v s).regs = s.regs := by
  simp only [setCReg]; split <;> rfl
@[simp] theorem setCReg_jumped (cp : Fin 16) (id : BitVec 16) (v : Word) (s : State) : (setCReg cp id v s).jumped = s.jumped := by
  simp only [setCReg]; split <;> rfl
@[simp] theorem setCReg_cpsr (cp : Fin 16) (id : BitVec 16) (v : Word) (s : State) : (setCReg cp id v s).cpsr = s.cpsr := by
  simp only [setCReg]; split <;> rfl
@[simp] theorem setCReg_spsr (cp : Fin 16) (id : BitVec 16) (v : Word) (s : State) : (setCReg cp id v s).spsr = s.spsr := by
  simp only [setCReg]; split <;> rfl
@[simp] theorem setCReg_mem (cp : Fin 16) (id : BitVec 16) (v : Word) (s : State) : (setCReg cp id v s).mem = s.mem := by
  simp only [setCReg]; split <;> rfl
@[simp] theorem setCReg_periph (cp : Fin 16) (id : BitVec 16) (v : Word) (s : State) : (setCReg cp id v s).periph = s.periph := by
  simp only [setCReg]; split <;> rfl
@[simp] theorem setCReg_busTick (cp : Fin 16) (id : BitVec 16) (v : Word) (s : State) : (setCReg cp id v s).busTick = s.busTick := by
  simp only [setCReg]; split <;> rfl
@[simp] theorem setCReg_stop (cp : Fin 16) (id : BitVec 16) (v : Word) (s : State) : (setCReg cp id v s).stop = s.stop := by
  simp only [setCReg]; split <;> rfl
@[simp] theorem setCReg_haltReq (cp : Fin 16) (id : BitVec 16) (v : Word) (s : State) : (setCReg cp id v s).haltReq = s.haltReq := by
  simp only [setCReg]; split <;> rfl
@[simp] theorem setCReg_cfg (cp : Fin 16) (id : BitVec 16) (v : Word) (s : State) : (setCReg cp id v s).cfg = s.cfg := by
  simp only [setCReg]; split <;> rfl

@[simp] theorem cdpEffect_regs (d : CdpOperand) (s : State) : (cdpEffect d s).regs = s.regs := by
  simp only [cdpEffect]; split <;> rfl
@[simp] theorem cdpEffect_jumped (d : CdpOperand) (s : State) : (cdpEffect d s).jumped = s.jumped := by
  simp only [cdpEffect]; split <;> rfl
@[simp] theorem cdpEffect_cpsr (d : CdpOperand) (s : State) : (cdpEffect d s).cpsr = s.cpsr := by
  simp only [cdpEffect]; split <;> rfl
@[simp] theorem cdpEffect_spsr (d : CdpOperand) (s : State) : (cdpEffect d s).spsr = s.spsr := by
  simp only [cdpEffect]; split <;> rfl
@[simp] theorem cdpEffect_mem (d : CdpOperand) (s : State) : (cdpEffect d s).mem = s.mem := by
  simp only [cdpEffect]; split <;> rfl
@[simp] theorem cdpEffect_periph (d : CdpOperand) (s : State) : (cdpEffect d s).periph = s.periph := by
  simp only [cdpEffect]; split <;> rfl
@[simp] theorem cdpEffect_busTick (d : CdpOperand) (s : State) : (cdpEffect d s).busTick = s.busTick := by
  simp only [cdpEffect]; split <;> rfl
@[simp] theorem cdpEffect_stop (d : CdpOperand) (s : State) : (cdpEffect d s).stop = s.stop := by
  simp only [cdpEffect]; split <;> rfl
@[simp] theorem cdpEffect_haltReq (d : CdpOperand) (s : State) : (cdpEffect d s).haltReq = s.haltReq := by
  simp only [cdpEffect]; split <;> rfl
@[simp] theorem cdpEffect_cfg (d : CdpOperand) (s : State) : (cdpEffect d s).cfg = s.cfg := by
  simp only [cdpEffect]; split <;> rfl

@[simp] theorem baseUpdate_cpsr (m : LsOperand) (a : Address) (s : State) : (baseUpdate m a s).cpsr = s.cpsr := by
  simp only [baseUpdate]; split <;> rfl
@[simp] theorem baseUpdate_spsr (m : LsOperand) (a : Address) (s : State) : (baseUpdate m a s).spsr = s.spsr := by
  simp only [baseUpdate]; split <;> rfl
@[simp] theorem baseUpdate_coproc (m : LsOperand) (a : Address) (s : State) : (baseUpdate m a s).coproc = s.coproc := by
  simp only [baseUpdate]; split <;> rfl
@[simp] theorem baseUpdate_mem (m : LsOperand) (a : Address) (s : State) : (baseUpdate m a s).mem = s.mem := by
  simp only [baseUpdate]; split <;> rfl
@[simp] theorem baseUpdate_periph (m : LsOperand) (a : Address) (s : State) : (baseUpdate m a s).periph = s.periph := by
  simp only [baseUpdate]; split <;> rfl
@[simp] theorem baseUpdate_busTick (m : LsOperand) (a : Address) (s : State) : (baseUpdate m a s).busTick = s.busTick := by
  simp only [baseUpdate]; split <;> rfl
@[simp] theorem baseUpdate_stop (m : LsOperand) (a : Address) (s : State) : (baseUpdate m a s).stop = s.stop := by
  simp only [baseUpdate]; split <;> rfl
@[simp] theorem baseUpdate_haltReq (m : LsOperand) (a : Address) (s : State) : (baseUpdate m a s).haltReq = s.haltReq := by
  simp only [baseUpdate]; split <;> rfl
@[simp] theorem baseUpdate_cfg (m : LsOperand) (a : Address) (s : State) : (baseUpdate m a s).cfg = s.cfg := by
  simp only [baseUpdate]; split <;> rfl

@[simp] theorem multipleUpdate_cpsr (m : LsmOperand) (v : Word) (s : State) : (multipleUpdate m v s).cpsr = s.cpsr := by
  simp only [multipleUpdate]; split <;> rfl
@[simp] theorem multipleUpdate_spsr (m : LsmOperand) (v : Word) (s : State) : (multipleUpdate m v s).spsr = s.spsr := by
  simp only [multipleUpdate]; split <;> rfl
@[simp] theorem multipleUpdate_coproc (m : LsmOperand) (v : Word) (s : State) : (multipleUpdate m v s).coproc = s.coproc := by
  simp only [multipleUpdate]; split <;> rfl
@[simp] theorem multipleUpdate_mem (m : LsmOperand) (v : Word) (s : State) : (multipleUpdate m v s).mem = s.mem := by
  simp only [multipleUpdate]; split <;> rfl
@[simp] theorem multipleUpdate_periph (m : LsmOperand) (v : Word) (s : State) : (multipleUpdate m v s).periph = s.periph := by
  simp only [multipleUpdate]; split <;> rfl
@[simp] theorem multipleUpdate_busTick (m : LsmOperand) (v : Word) (s : State) : (multipleUpdate m v s).busTick = s.busTick := by
  simp only [multipleUpdate]; split <;> rfl
@[simp] theorem multipleUpdate_stop (m : LsmOperand) (v : Word) (s : State) : (multipleUpdate m v s).stop = s.stop := by
  simp only [multipleUpdate]; split <;> rfl
@[simp] theorem multipleUpdate_haltReq (m : LsmOperand) (v : Word) (s : State) : (multipleUpdate m v s).haltReq = s.haltReq := by
  simp only [multipleUpdate]; split <;> rfl
@[simp] theorem multipleUpdate_cfg (m : LsmOperand) (v : Word) (s : State) : (multipleUpdate m v s).cfg = s.cfg := by
  simp only [multipleUpdate]; split <;> rfl

@[simp] theorem writeBack_spsr (sf : Bool) (rd : Reg) (r : Word) (k : FlagClass) (w : Bool) (s : State) : (writeBack sf rd r k w s).spsr = s.spsr := by
  simp only [writeBack]; split <;> simp
@[simp] theorem writeBack_coproc (sf : Bool) (rd : Reg) (r : Word) (k : FlagClass) (w : Bool) (s : State) : (writeBack sf rd r k w s).coproc = s.coproc := by
  simp only [writeBack]; split <;> simp
@[simp] theorem writeBack_mem (sf : Bool) (rd : Reg) (r : Word) (k : FlagClass) (w : Bool) (s : State) : (writeBack sf rd r k w s).mem = s.mem := by
  simp only [writeBack]; split <;> simp
@[simp] theorem writeBack_periph (sf : Bool) (rd : Reg) (r : Word) (k : FlagClass) (w : Bool) (s : State) : (writeBack sf rd r k w s).periph = s.periph := by
  simp only [writeBack]; split <;> simp
@[simp] theorem writeBack_busTick (sf : Bool) (rd : Reg) (r : Word) (k : FlagClass) (w : Bool) (s : State) : (writeBack sf rd r k w s).busTick = s.busTick := by
  simp only [writeBack]; split <;> simp
@[simp] theorem writeBack_stop (sf : Bool) (rd : Reg) (r : Word) (k : FlagClass) (w : Bool) (s : State) : (writeBack sf rd r k w s).stop = s.stop := by
  simp only [writeBack]; split <;> simp
@[simp] theorem writeBack_haltReq (sf : Bool) (rd : Reg) (r : Word) (k : FlagClass) (w : Bool) (s : State) : (writeBack sf rd r k w s).haltReq = s.haltReq := by
  simp only [writeBack]; split <;> simp
@[simp] theorem writeBack_cfg (sf : Bool) (rd : Reg) (r : Word) (k : FlagClass) (w : Bool) (s : State) : (writeBack sf rd r k w s).cfg = s.cfg := by
  simp only [writeBack]; split <;> simp

@[simp] theorem writeLoaded_spsr (rd : Reg) (v : Word) (s : State) : (writeLoaded rd v s).spsr = s.spsr := by
  simp only [writeLoaded]; split <;> rfl
@[simp] theorem writeLoaded_coproc (rd : Reg) (v : Word) (s : State) : (writeLoaded rd v s).coproc = s.coproc := by
  simp only [writeLoaded]; split <;> rfl
@[simp] theorem writeLoaded_mem (rd : Reg) (v : Word) (s : State) : (writeLoaded rd v s).mem = s.mem := by
  simp only [writeLoaded]; split <;> rfl
@[simp] theorem writeLoaded_periph (rd : Reg) (v : Word) (s : State) : (writeLoaded rd v s).periph = s.periph := by
  simp only [writeLoaded]; split <;> rfl
@[simp] theorem writeLoaded_busTick (rd : Reg) (v : Word) (s : State) : (writeLoaded rd v s).busTick = s.busTick := by
  simp only [writeLoaded]; split <;> rfl
@[simp] theorem writeLoaded_stop (rd : Reg) (v : Word) (s : State) : (writeLoaded rd v s).stop = s.stop := by
  simp only [writeLoaded]; split <;> rfl
@[simp] theorem writeLoaded_haltReq (rd : Reg) (v : Word) (s : State) : (writeLoaded rd v s).haltReq = s.haltReq := by
  simp only [writeLoaded]; split <;> rfl
@[simp] theorem writeLoaded_cfg (rd : Reg) (v : Word) (s : State) : (writeLoaded rd v s).cfg = s.cfg := by
  simp only [writeLoaded]; split <;> rfl

/-! ### The register file -/

/-- Read after write on the raw registers. -/
theorem get_set {α : Type} (v : Vector α 16) (i : Nat) (x : α) (h : i < 16) (j : Fin 16) :
    (v.set i x h).get j = if j.val = i then x else v.get j := by
  simp only [Vector.get_eq_getElem, Vector.getElem_set, eq_comm (a := i)]

/-- R23: the raw registers after a write. -/
theorem writeReg_get (s : State) (i : Reg) (v : Word) (j : Reg) :
    (s.writeReg i v).regs.get j = if j = i then v else s.regs.get j := by
  simp [get_set, Fin.ext_iff]

theorem readReg_pc (s : State) : s.readReg Reg.pc = s.regs.get Reg.pc + 8 := rfl

theorem readReg_ne_pc (s : State) (i : Reg) (h : i ≠ Reg.pc) : s.readReg i = s.regs.get i := by
  simp [State.readReg, h]

/-- A register read sees the register file only. -/
theorem readReg_congr {s t : State} (h : t.regs = s.regs) (i : Reg) : t.readReg i = s.readReg i := by
  simp [State.readReg, h]

/-! ### The host's accesses and steps -/

/-- A core that is not running does nothing at a step (R46). -/
theorem step_setStop {c : StopStatus} (h : c ≠ .running) (s : State) : step (setStop c s) = .next (setStop c s) := by
  cases c <;> first | exact absurd rfl h | rfl

/-- A core that a Fatal or Refuse stopped does nothing at a step (R310). -/
theorem step_stopCore {c : StopStatus} (h : c ≠ .running) (e : StopEvent) (s : State) :
    step (stopCore e c s) = .next (stopCore e c s) :=
  step_setStop h _

theorem hostStep_next {s t : State} (h : step s = .next t) : hostStep s = t := by
  rw [hostStep, h]

theorem hostStep_fault {s : State} {k : Fault} (h : step s = .fault k) :
    hostStep s = stopCore .step (.stoppedFault k) s := by
  rw [hostStep, h]

theorem hostStep_refused {s : State} {q : Refusal} (h : step s = .refused q) :
    hostStep s = stopCore .step (.stoppedRefusal q) s := by
  rw [hostStep, h]

theorem hostRead_ok {a : Addr} {d : Nat} {s t : State} {v : BitVec 64} (h : busRead a d s = .ok (v, t)) :
    hostRead a d s = (.ok v, t) := by
  rw [hostRead, h, hostAccess]

theorem hostRead_error {a : Addr} {d : Nat} {s : State} {k : Fault} (h : busRead a d s = .error k) :
    hostRead a d s = (.error k, stopCore (.read a d) (.stoppedFault k) s) := by
  rw [hostRead, h, hostAccess]

theorem hostWrite_ok {a : Addr} {d : Nat} {v : BitVec 64} {s t : State} (h : busWrite a d v s = .ok t) :
    hostWrite a d v s = (.ok (), t) := by
  rw [hostWrite, h]; rfl

theorem hostWrite_error {a : Addr} {d : Nat} {v : BitVec 64} {s : State} {k : Fault} (h : busWrite a d v s = .error k) :
    hostWrite a d v s = (.error k, stopCore (.write a d v) (.stoppedFault k) s) := by
  rw [hostWrite, h]; rfl

end Sys2Proof.Machine
end

