-- ==== Sys2Proof/Laws/Bus.lean ====
section
/-! SUPPORT. The masked access unit in plain arithmetic, what a bus access can change, and the router over RAM. -/

namespace Sys2Proof.Machine

/-! ## Masks in plain arithmetic -/

/-- A width in WIDTHS is 8 times a power of two up to 8. -/
theorem legalWidth_cases {n : Nat} (h : legalWidth n = true) : ∃ k, k ≤ 3 ∧ n = 8 * 2 ^ k := by
  simp only [legalWidth, Bool.or_eq_true, beq_iff_eq] at h
  rcases h with ((h | h) | h) | h
  · exact ⟨0, by omega, h⟩
  · exact ⟨1, by omega, h⟩
  · exact ⟨2, by omega, h⟩
  · exact ⟨3, by omega, h⟩

theorem getLsbD_addressMask (k i : Nat) :
    (addressMask (8 * 2 ^ k)).getLsbD i = (decide (i < 64) && !decide (i < k)) := by
  have h : 8 * 2 ^ k / 8 = 2 ^ k := by omega
  simp only [addressMask, h, BitVec.getLsbD_not, BitVec.getLsbD_ofNat, Nat.testBit_two_pow_sub_one]
  by_cases h64 : i < 64 <;> simp [h64]

/-- Rounding down (R68). -/
theorem and_addressMask_pow (a : Addr) (k : Nat) :
    (a &&& addressMask (8 * 2 ^ k)).toNat = a.toNat / 2 ^ k * 2 ^ k := by
  have h : a &&& addressMask (8 * 2 ^ k) = (a >>> k) <<< k := by
    apply BitVec.eq_of_getLsbD_eq
    intro i hi
    simp only [BitVec.getLsbD_and, getLsbD_addressMask, BitVec.getLsbD_shiftLeft, BitVec.getLsbD_ushiftRight, hi,
      decide_true, Bool.true_and]
    by_cases hk : i < k
    · simp [hk]
    · simp [hk, show k + (i - k) = i by omega]
  rw [h, BitVec.toNat_shiftLeft, BitVec.toNat_ushiftRight, Nat.shiftLeft_eq, Nat.shiftRight_eq_div_pow,
    Nat.mod_eq_of_lt]
  exact Nat.lt_of_le_of_lt (Nat.div_mul_le_self _ _) a.isLt

/-- Rounding down (R68, R80), for a width in WIDTHS. -/
theorem and_addressMask (a : Addr) {len : Nat} (h : legalWidth len = true) :
    (a &&& addressMask len).toNat = a.toNat / (len / 8) * (len / 8) := by
  obtain ⟨k, -, rfl⟩ := legalWidth_cases h
  rw [and_addressMask_pow, show 8 * 2 ^ k / 8 = 2 ^ k by omega]

/-- R70 in plain arithmetic. -/
theorem shiftFor_eq (a : Addr) {b d : Nat} (hb : legalWidth b = true) (hd : legalWidth d = true) :
    shiftFor a b d = a.toNat % (b / 8) / (d / 8) * (d / 8) * 8 := by
  obtain ⟨kb, hkb, rfl⟩ := legalWidth_cases hb
  obtain ⟨kd, -, rfl⟩ := legalWidth_cases hd
  have h1 : a &&& ~~~addressMask (8 * 2 ^ kb) = BitVec.ofNat 64 (a.toNat % 2 ^ kb) := by
    apply BitVec.eq_of_getLsbD_eq
    intro i hi
    simp only [BitVec.getLsbD_and, BitVec.getLsbD_not, getLsbD_addressMask, hi, decide_true, Bool.true_and, Bool.not_not,
      BitVec.getLsbD_ofNat, Nat.testBit_mod_two_pow]
    rw [Bool.and_comm]
    rfl
  have h2 : a.toNat % 2 ^ kb < 2 ^ 64 := Nat.lt_of_le_of_lt (Nat.mod_le _ _) a.isLt
  rw [shiftFor, h1, and_addressMask_pow, BitVec.toNat_ofNat, Nat.mod_eq_of_lt h2,
    show 8 * 2 ^ kb / 8 = 2 ^ kb by omega, show 8 * 2 ^ kd / 8 = 2 ^ kd by omega]

theorem getLsbD_dataMask (d i : Nat) : (dataMask d).getLsbD i = (decide (i < 64) && decide (i < d)) := by
  simp only [dataMask, BitVec.getLsbD_ofNat, Nat.testBit_two_pow_sub_one]

/-- Truncation to `d` bits (R69). -/
theorem and_dataMask_toNat (v : BitVec 64) (d : Nat) : (v &&& dataMask d).toNat = v.toNat % 2 ^ d := by
  apply Nat.eq_of_testBit_eq
  intro i
  have : (v &&& dataMask d).toNat.testBit i = (v.getLsbD i && (dataMask d).getLsbD i) := by
    rw [BitVec.toNat_and, Nat.testBit_and]; rfl
  rw [this, getLsbD_dataMask, Nat.testBit_mod_two_pow]
  by_cases h : i < 64
  · simp only [h, decide_true, Bool.true_and, Bool.and_comm]; rfl
  · have hz : v.toNat.testBit i = false :=
      Nat.testBit_lt_two_pow (Nat.lt_of_lt_of_le v.isLt (Nat.pow_le_pow_right (by omega) (by omega)))
    simp [h, hz]

/-- Byte `k` of a bus word, as arithmetic and as a field. -/
theorem ofNat_div_byte (v : BitVec 64) (k : Nat) : BitVec.ofNat 8 (v.toNat / 256 ^ k) = v.extractLsb' (8 * k) 8 := by
  rw [show (256 : Nat) ^ k = 2 ^ (8 * k) by rw [Nat.pow_mul]]
  apply BitVec.eq_of_toNat_eq
  simp [Nat.shiftRight_eq_div_pow]

/-- RAM keeps its bytes at absolute addresses: the region's base cancels. -/
theorem base_add_offset (r : Region) (x : Addr) : r.base + (x - r.base) = x := by
  rw [BitVec.add_comm, BitVec.sub_add_cancel]

/-! ## What a bus access can change -/

theorem deviceRead_frame (r : Region) (off : Addr) (s : State) :
    (deviceRead r off s).2
      = { s with periph := (deviceRead r off s).2.periph, busTick := (deviceRead r off s).2.busTick } := by
  simp only [deviceRead]; split <;> rfl

theorem deviceWrite_frame (r : Region) (off : Addr) (v : BitVec 64) (s : State) :
    deviceWrite r off v s
      = { s with mem := (deviceWrite r off v s).mem, periph := (deviceWrite r off v s).periph,
                 busTick := (deviceWrite r off v s).busTick } := by
  simp only [deviceWrite]; split <;> rfl

theorem deviceRead_wf (r : Region) (off : Addr) (s : State) (h : cellsWf periphDefault s.periph = true) :
    cellsWf periphDefault (deviceRead r off s).2.periph = true := by
  simp only [deviceRead]; split
  · exact h
  · exact cellSet_wf _ _ h

theorem deviceWrite_wf (r : Region) (off : Addr) (v : BitVec 64) (s : State) (hm : Memory.wf s.mem = true)
    (h : cellsWf periphDefault s.periph = true) :
    Memory.wf (deviceWrite r off v s).mem = true ∧ cellsWf periphDefault (deviceWrite r off v s).periph = true := by
  simp only [deviceWrite]; split
  · exact ⟨writeBytes_wf hm _ _ _, h⟩
  · exact ⟨hm, cellSet_wf _ _ h⟩

/-- A read that succeeds was answered by the one region looked up, through one device read (R74). -/
theorem busRead_ok {a : Addr} {d : Nat} {s t : State} {v : BitVec 64} (h : busRead a d s = .ok (v, t)) :
    ∃ r, lookup s.cfg.addressMap a = some r ∧ d ≤ r.width ∧ legalWidth r.width = true ∧ legalWidth d = true ∧
      t = (deviceRead r ((a &&& addressMask r.width) - r.base) s).2 ∧
      v = (deviceRead r ((a &&& addressMask r.width) - r.base) s).1 >>> shiftFor a r.width d &&& dataMask d := by
  simp only [busRead] at h
  split at h
  · cases h
  · rename_i r hr
    split at h
    · cases h
    · rename_i hw
      simp only [readMasked] at h
      by_cases hl : (legalWidth r.width && legalWidth d) = true
      · simp only [hl, if_true] at h
        have hl' := Bool.and_eq_true_iff.1 hl
        injection h with h
        injection h with h1 h2
        exact ⟨r, hr, by omega, hl'.1, hl'.2, h2.symm, h1.symm⟩
      · simp only [hl, Bool.false_eq_true, if_false] at h
        cases h

/-- A read changes only the states of devices that are not RAM. -/
theorem busRead_frame {a : Addr} {d : Nat} {s t : State} {v : BitVec 64} (h : busRead a d s = .ok (v, t)) :
    t = { s with periph := t.periph, busTick := t.busTick } := by
  obtain ⟨r, -, -, -, -, rfl, -⟩ := busRead_ok h
  exact deviceRead_frame _ _ _

theorem busRead_wf {a : Addr} {d : Nat} {s t : State} {v : BitVec 64} (h : busRead a d s = .ok (v, t))
    (hs : cellsWf periphDefault s.periph = true) : cellsWf periphDefault t.periph = true := by
  obtain ⟨r, -, -, -, -, rfl, -⟩ := busRead_ok h
  exact deviceRead_wf _ _ _ hs

/-- A write that succeeds went to the one region looked up: one device write at full width, else a device read and a
device write (R75). -/
theorem busWrite_ok {a : Addr} {d : Nat} {v : BitVec 64} {s t : State} (h : busWrite a d v s = .ok t) :
    ∃ r, lookup s.cfg.addressMap a = some r ∧ d ≤ r.width ∧
      ((d = r.width ∧ t = deviceWrite r ((a &&& addressMask r.width) - r.base) (v &&& dataMask r.width) s) ∨
       (d ≠ r.width ∧ ∃ w, writeMasked a (deviceRead r ((a &&& addressMask r.width) - r.base) s).1 v r.width d = .ok w ∧
          t = deviceWrite r ((a &&& addressMask r.width) - r.base) (w &&& dataMask r.width)
            (deviceRead r ((a &&& addressMask r.width) - r.base) s).2)) := by
  simp only [busWrite] at h
  split at h
  · cases h
  · rename_i r hr
    split at h
    · cases h
    · rename_i hw
      split at h
      · rename_i hd
        injection h with h
        exact ⟨r, hr, by omega, .inl ⟨hd, h.symm⟩⟩
      · rename_i hd
        split at h
        · cases h
        · rename_i w hm
          injection h with h
          exact ⟨r, hr, by omega, .inr ⟨hd, w, hm, h.symm⟩⟩

/-- A write changes only memory and the states of other devices. -/
theorem busWrite_frame {a : Addr} {d : Nat} {v : BitVec 64} {s t : State} (h : busWrite a d v s = .ok t) :
    t = { s with mem := t.mem, periph := t.periph, busTick := t.busTick } := by
  obtain ⟨r, -, -, ⟨-, rfl⟩ | ⟨-, w, -, rfl⟩⟩ := busWrite_ok h
  · exact deviceWrite_frame _ _ _ _
  · have h1 := deviceRead_frame r ((a &&& addressMask r.width) - r.base) s
    have h2 := deviceWrite_frame r ((a &&& addressMask r.width) - r.base) (w &&& dataMask r.width)
      (deviceRead r ((a &&& addressMask r.width) - r.base) s).2
    generalize deviceWrite r _ _ _ = t at h2 ⊢
    rw [h2, h1]

theorem busWrite_wf {a : Addr} {d : Nat} {v : BitVec 64} {s t : State} (h : busWrite a d v s = .ok t)
    (hm : Memory.wf s.mem = true) (hp : cellsWf periphDefault s.periph = true) :
    Memory.wf t.mem = true ∧ cellsWf periphDefault t.periph = true := by
  obtain ⟨r, -, -, ⟨-, rfl⟩ | ⟨-, w, -, rfl⟩⟩ := busWrite_ok h
  · exact deviceWrite_wf _ _ _ _ hm hp
  · refine deviceWrite_wf _ _ _ _ ?_ (deviceRead_wf _ _ _ hp)
    rw [deviceRead_frame]
    exact hm

/-! ## The core's accesses -/

theorem readWord_ok {a v : Word} {s t : State} (h : readWord a s = .ok (v, t)) :
    ∃ w, busRead (a.setWidth 64) 32 s = .ok (w, t) ∧ v = w.setWidth 32 := by
  simp only [readWord] at h
  split at h
  · cases h
  · rename_i w u hw
    cases h
    exact ⟨w, hw, rfl⟩

theorem readByteBus_ok {a : Word} {v : Byte} {s t : State} (h : readByteBus a s = .ok (v, t)) :
    ∃ w, busRead (a.setWidth 64) 8 s = .ok (w, t) ∧ v = w.setWidth 8 := by
  simp only [readByteBus] at h
  split at h
  · cases h
  · rename_i w u hw
    cases h
    exact ⟨w, hw, rfl⟩

/-- A word read by the core changes only the states of devices that are not RAM. -/
theorem readWord_frame {a v : Word} {s t : State} (h : readWord a s = .ok (v, t)) :
    t = { s with periph := t.periph, busTick := t.busTick } := by
  obtain ⟨w, hw, -⟩ := readWord_ok h
  exact busRead_frame hw

/-- A byte read by the core changes only the states of devices that are not RAM. -/
theorem readByteBus_frame {a : Word} {v : Byte} {s t : State} (h : readByteBus a s = .ok (v, t)) :
    t = { s with periph := t.periph, busTick := t.busTick } := by
  obtain ⟨w, hw, -⟩ := readByteBus_ok h
  exact busRead_frame hw

end Sys2Proof.Machine
end

