-- ==== Sys2Proof/Laws/Decode.lean ====
section
/-! SUPPORT. Fields of a word and packed fields in plain arithmetic: what a proof about the decoder or the encoder cites. -/

namespace Sys2Proof

theorem toNat_bits (w : Word) (lo n : Nat) : (bits w lo n).toNat = w.toNat / 2 ^ lo % 2 ^ n := by
  simp [bits, BitVec.extractLsb'_toNat, Nat.shiftRight_eq_div_pow]

theorem toNat_pack (fields : List (Nat × Nat)) :
    (pack fields).toNat = (fields.foldl (fun acc f => acc * 2 ^ f.1 + f.2) 0) % 2 ^ 32 := by
  simp [pack]

/-- A field read off a word whose value is known. -/
theorem bits_eq {w : Word} {lo n : Nat} {v : BitVec n} (h : w.toNat / 2 ^ lo % 2 ^ n = v.toNat) : bits w lo n = v := by
  apply BitVec.eq_of_toNat_eq
  rw [toNat_bits, h]

theorem regAt_eq {w : Word} {lo : Nat} {r : Reg} (h : w.toNat / 2 ^ lo % 16 = r.val) : regAt w lo = r := by
  apply Fin.ext
  simp [regAt, toNat_bits, h]

theorem bit_eq {w : Word} {k : Nat} {b : Bool} (h : w.toNat / 2 ^ k % 2 = b.toNat) : bit w k = b := by
  have : bit w k = decide (w.toNat / 2 ^ k % 2 = 1) := by
    simp [bit, BitVec.getLsbD, Nat.testBit_eq_decide_div_mod_eq]
  rw [this, h]
  cases b <;> rfl

theorem Cond.code_lt (c : Cond) : c.code < 15 := by cases c <;> decide

@[simp] theorem Cond.ofCode_code (c : Cond) : Cond.ofCode c.code = some c := by cases c <;> rfl

theorem ShiftKind.code_lt (k : ShiftKind) : k.code < 4 := by cases k <;> decide

@[simp] theorem ShiftKind.ofCode_code (k : ShiftKind) : ShiftKind.ofCode k.code = k := by cases k <;> rfl

/-! ## The top field of packed fields -/

/-- Each value fits its width, and the widths add up to `n`. -/
def FieldsFit : List (Nat × Nat) → Nat → Prop
  | [], n => n = 0
  | (w, v) :: rest, n => v < 2 ^ w ∧ w ≤ n ∧ FieldsFit rest (n - w)

theorem fieldsFit_cons {w v n : Nat} {rest : List (Nat × Nat)} :
    FieldsFit ((w, v) :: rest) n ↔ v < 2 ^ w ∧ w ≤ n ∧ FieldsFit rest (n - w) := Iff.rfl

theorem fieldsFit_nil {n : Nat} : FieldsFit [] n ↔ n = 0 := Iff.rfl

/-- Packing appends below: the accumulator moves up by the width of the rest. -/
theorem foldl_fields {rest : List (Nat × Nat)} {n : Nat} (h : FieldsFit rest n) (acc : Nat) :
    ∃ low, low < 2 ^ n ∧ rest.foldl (fun acc f => acc * 2 ^ f.1 + f.2) acc = acc * 2 ^ n + low := by
  induction rest generalizing n acc with
  | nil => exact ⟨0, by simp [show n = 0 from h], by simp [show n = 0 from h]⟩
  | cons f rest ih =>
    obtain ⟨w, v⟩ := f
    obtain ⟨hv, hw, hr⟩ := h
    obtain ⟨low, hl, he⟩ := ih hr (acc * 2 ^ w + v)
    refine ⟨v * 2 ^ (n - w) + low, ?_, ?_⟩
    · calc v * 2 ^ (n - w) + low < v * 2 ^ (n - w) + 2 ^ (n - w) := by omega
        _ = (v + 1) * 2 ^ (n - w) := by rw [Nat.add_mul, Nat.one_mul]
        _ ≤ 2 ^ w * 2 ^ (n - w) := Nat.mul_le_mul_right _ hv
        _ = 2 ^ n := by rw [← Nat.pow_add]; congr 1; omega
    · have hp : 2 ^ n = 2 ^ w * 2 ^ (n - w) := by rw [← Nat.pow_add]; congr 1; omega
      simp only [List.foldl, he, hp]
      rw [Nat.add_mul, Nat.mul_assoc, Nat.add_assoc]

/-- The top field of a packed word, four bits wide. -/
theorem pack_top {c : Nat} {rest : List (Nat × Nat)} (hc : c < 16) (h : FieldsFit rest 28) :
    (pack ((4, c) :: rest)).toNat / 2 ^ 28 = c := by
  obtain ⟨low, hl, he⟩ := foldl_fields h c
  rw [toNat_pack, List.foldl]
  simp only [Nat.zero_mul, Nat.zero_add, he]
  omega

/-! ## Packed formats as sums -/

/-- Formats DPI and DPS: the sum of the fields, given the twelve low bits. -/
theorem packDp_imm_toNat (c : Cond) (form opcode : Nat) (sf : Bool) (rn rd : Reg) (op : ImmOperand) (hf : form < 8)
    (ho : opcode < 16) :
    (packDp c form opcode sf rn rd (packImm op)).toNat = c.code * 2 ^ 28 + form * 2 ^ 25 + opcode * 2 ^ 21 +
      sf.toNat * 2 ^ 20 + rn.val * 2 ^ 16 + rd.val * 2 ^ 12 + op.rot.toNat * 2 ^ 8 + op.imm8.toNat := by
  have := c.code_lt; have := sf.toNat_lt; have := rn.isLt; have := rd.isLt
  have := op.rot.isLt; have := op.imm8.isLt
  simp only [packDp, packImm, toNat_pack, List.foldl, List.cons_append, List.nil_append]
  omega

theorem packDp_shift_toNat (c : Cond) (form opcode : Nat) (sf : Bool) (rn rd : Reg) (op : ShiftOperand) (hf : form < 8)
    (ho : opcode < 16) :
    (packDp c form opcode sf rn rd (packShift op)).toNat = c.code * 2 ^ 28 + form * 2 ^ 25 + opcode * 2 ^ 21 +
      sf.toNat * 2 ^ 20 + rn.val * 2 ^ 16 + rd.val * 2 ^ 12 + op.amount.toNat * 2 ^ 7 + op.kind.code * 2 ^ 5 +
      op.rm.val := by
  have := c.code_lt; have := sf.toNat_lt; have := rn.isLt; have := rd.isLt
  have := op.amount.isLt; have := op.kind.code_lt; have := op.rm.isLt
  simp only [packDp, packShift, toNat_pack, List.foldl, List.cons_append, List.nil_append]
  omega

theorem packLs_toNat (c : Cond) (b l : Bool) (m : LsOperand) :
    (packLs c b l m).toNat = c.code * 2 ^ 28 + 2 * 2 ^ 25 + m.p.toNat * 2 ^ 24 + m.u.toNat * 2 ^ 23 + b.toNat * 2 ^ 22 +
      m.w.toNat * 2 ^ 21 + l.toNat * 2 ^ 20 + m.rn.val * 2 ^ 16 + m.rd.val * 2 ^ 12 + m.imm12.toNat := by
  have := c.code_lt; have := m.p.toNat_lt; have := m.u.toNat_lt; have := b.toNat_lt; have := m.w.toNat_lt
  have := l.toNat_lt; have := m.rn.isLt; have := m.rd.isLt; have := m.imm12.isLt
  simp only [packLs, toNat_pack, List.foldl]
  omega

theorem packLsm_toNat (c : Cond) (sBit l : Bool) (m : LsmOperand) :
    (packLsm c sBit l m).toNat = c.code * 2 ^ 28 + 4 * 2 ^ 25 + m.p.toNat * 2 ^ 24 + m.u.toNat * 2 ^ 23 +
      sBit.toNat * 2 ^ 22 + m.w.toNat * 2 ^ 21 + l.toNat * 2 ^ 20 + m.rn.val * 2 ^ 16 + m.list.toNat := by
  have := c.code_lt; have := m.p.toNat_lt; have := m.u.toNat_lt; have := sBit.toNat_lt; have := m.w.toNat_lt
  have := l.toNat_lt; have := m.rn.isLt; have := m.list.isLt
  simp only [packLsm, toNat_pack, List.foldl]
  omega

theorem packCp_toNat (c : Cond) (l : Bool) (d : CpOperand) :
    (packCp c l d).toNat = c.code * 2 ^ 28 + 14 * 2 ^ 24 + d.opcode1.toNat * 2 ^ 21 + l.toNat * 2 ^ 20 +
      d.crn.toNat * 2 ^ 16 + d.rd.val * 2 ^ 12 + d.cp.val * 2 ^ 8 + d.opcode2.toNat * 2 ^ 5 + 2 ^ 4 + d.crm.toNat := by
  have := c.code_lt; have := d.opcode1.isLt; have := l.toNat_lt; have := d.crn.isLt; have := d.rd.isLt
  have := d.cp.isLt; have := d.opcode2.isLt; have := d.crm.isLt
  simp only [packCp, toNat_pack, List.foldl]
  omega

end Sys2Proof
end

