-- ==== Sys2Proof/Laws/Exec.lean ====
section
/-! SUPPORT. What each shared operation of the meanings can do: if it answers a next state, then which. -/

namespace Sys2Proof.Machine

/-! ## The wrappers every meaning goes through -/

theorem conditional_next {c : Cond} {s t : State} {body : Result} (h : conditional c s body = .next t) :
    (condPassed c s.cpsr = true ∧ body = .next t) ∨ (condPassed c s.cpsr = false ∧ t = s) := by
  simp only [conditional] at h
  split at h
  · exact .inl ⟨‹_›, h⟩
  · cases h
    exact .inr ⟨by simp_all, rfl⟩

@[simp] theorem conditional_passed {c : Cond} {s : State} (h : condPassed c s.cpsr = true) (body : Result) :
    conditional c s body = body := by
  simp [conditional, h]

@[simp] theorem unlisted_implement {s : State} (h : s.cfg.unlisted = .implement) (body : Result) :
    unlisted s body = body := by
  simp [unlisted, h]

theorem raiseUnsupported_next {s t : State} (h : raiseUnsupported s = .next t) : t = s := by
  simp only [raiseUnsupported] at h
  split at h <;> cases h
  rfl

theorem unlisted_next {s t : State} {body : Result} (h : unlisted s body = .next t) :
    (s.cfg.unlisted = .implement ∧ body = .next t) ∨ t = s := by
  simp only [unlisted] at h
  split at h
  · exact .inr (raiseUnsupported_next h)
  · exact .inl ⟨‹_›, h⟩

theorem ofBus_next {r : Except Fault State} {t : State} (h : ofBus r = .next t) : r = .ok t := by
  cases r <;> simp_all [ofBus]

/-! ## Data processing -/

theorem dpLogical_next {c : Cond} {sf w : Bool} {rd rn : Reg} {f : Word → Word → Word} {sh : ShifterOut} {s t : State}
    (h : dpLogical c sf w rd f rn sh s = .next t) :
    t = s ∨ ∃ r k, t = writeBack sf rd r k w s := by
  obtain ⟨-, h⟩ | ⟨-, h⟩ := conditional_next h
  · cases h; exact .inr ⟨_, _, rfl⟩
  · exact .inl h

theorem dpArithmetic_next {c : Cond} {sf w : Bool} {rd rn : Reg} {f : Word → Word → Bool → AluOut} {sh : ShifterOut}
    {s t : State} (h : dpArithmetic c sf w rd f rn sh s = .next t) :
    t = s ∨ ∃ r k, t = writeBack sf rd r k w s := by
  obtain ⟨-, h⟩ | ⟨-, h⟩ := conditional_next h
  · cases h; exact .inr ⟨_, _, rfl⟩
  · exact .inl h

theorem unlisted_dpLogical_next {c : Cond} {sf w : Bool} {rd rn : Reg} {f : Word → Word → Word} {sh : ShifterOut}
    {s t : State} (h : unlisted s (dpLogical c sf w rd f rn sh s) = .next t) :
    t = s ∨ ∃ r k, t = writeBack sf rd r k w s := by
  obtain ⟨-, h⟩ | h := unlisted_next h
  · exact dpLogical_next h
  · exact .inl h

theorem unlisted_dpArithmetic_next {c : Cond} {sf w : Bool} {rd rn : Reg} {f : Word → Word → Bool → AluOut}
    {sh : ShifterOut} {s t : State} (h : unlisted s (dpArithmetic c sf w rd f rn sh s) = .next t) :
    t = s ∨ ∃ r k, t = writeBack sf rd r k w s := by
  obtain ⟨-, h⟩ | h := unlisted_next h
  · exact dpArithmetic_next h
  · exact .inl h

/-- R159: all that write-back can do. -/
theorem writeBack_frame (sf : Bool) (rd : Reg) (r : Word) (k : FlagClass) (w : Bool) (s : State) :
    writeBack sf rd r k w s = { s with
        regs := (writeBack sf rd r k w s).regs
        jumped := s.jumped || (w && decide (rd = Reg.pc))
        cpsr := (writeBack sf rd r k w s).cpsr } := by
  cases w <;> cases sf <;> by_cases h : rd = Reg.pc <;>
    simp [writeBack, writeBackStatus, State.writeReg, restoreStatus, h]

theorem writeBack_get (sf : Bool) (rd : Reg) (r : Word) (k : FlagClass) (w : Bool) (s : State) (i : Reg) :
    (writeBack sf rd r k w s).regs.get i = if w = true ∧ i = rd then r else s.regs.get i := by
  cases w <;> simp [writeBack, get_set, Fin.ext_iff]

/-- R158, R159: CPSR after write-back. -/
theorem writeBack_cpsr (sf : Bool) (rd : Reg) (r : Word) (k : FlagClass) (w : Bool) (s : State) :
    (writeBack sf rd r k w s).cpsr =
      if sf = false then s.cpsr else if w = true ∧ rd = Reg.pc then s.spsr else setFlags s.cpsr r k := by
  cases w <;> cases sf <;> by_cases h : rd = Reg.pc <;>
    simp [writeBack, writeBackStatus, State.writeReg, restoreStatus, h]

/-! ## Single transfers -/

theorem singleTransfer_next {c : Cond} {m : LsOperand} {s t : State} {body : Address → Except Fault State}
    (h : singleTransfer c m s body = .next t) :
    t = s ∨ (addressRefusal m s = none ∧ body (address m s) = .ok t) := by
  obtain ⟨-, h⟩ | ⟨-, h⟩ := conditional_next h
  · split at h
    · cases h
    · exact .inr ⟨‹_›, ofBus_next h⟩
  · exact .inl h

theorem baseUpdate_frame (m : LsOperand) (a : Address) (s : State) :
    baseUpdate m a s = { s with
        regs := (baseUpdate m a s).regs
        jumped := s.jumped || (a.writeback && decide (m.rn = Reg.pc)) } := by
  simp only [baseUpdate]
  cases h : a.writeback <;> simp [State.writeReg]

theorem writePcInterworking_frame (v : Word) (s : State) :
    writePcInterworking v s = { s with
        regs := (writePcInterworking v s).regs
        jumped := true
        cpsr := withT s.cpsr (v.getLsbD 0) } := by
  simp [writePcInterworking, State.writeReg]

/-- R202: all that the destination write of LDR can do. -/
theorem writeLoaded_frame (rd : Reg) (v : Word) (s : State) :
    writeLoaded rd v s = { s with
        regs := (writeLoaded rd v s).regs
        jumped := s.jumped || decide (rd = Reg.pc)
        cpsr := if rd = Reg.pc then withT s.cpsr (v.getLsbD 0) else s.cpsr } := by
  by_cases h : rd = Reg.pc
  · simp [writeLoaded, h, writePcInterworking, State.writeReg]
  · simp [writeLoaded, h, State.writeReg]

/-- R200: the resolved write-back bit. -/
theorem address_writeback (m : LsOperand) (s : State) : (address m s).writeback = (!m.p || m.w) := by
  simp only [address]
  cases m.p <;> rfl

/-! ## Multiple transfers -/

theorem multipleTransfer_next {c : Cond} {m : LsmOperand} {s t : State} {body : Except Fault State}
    (h : multipleTransfer c m s body = .next t) :
    t = s ∨ (multipleRefusal m s = none ∧ body = .ok t) := by
  obtain ⟨-, h⟩ | ⟨-, h⟩ := conditional_next h
  · split at h
    · cases h
    · exact .inr ⟨‹_›, ofBus_next h⟩
  · exact .inl h

theorem multipleUpdate_frame (m : LsmOperand) (wb : Word) (s : State) :
    multipleUpdate m wb s = { s with
        regs := (multipleUpdate m wb s).regs
        jumped := s.jumped || (m.w && decide (m.rn = Reg.pc)) } := by
  simp only [multipleUpdate]
  cases h : m.w <;> simp [State.writeReg]

/-- The transfers of an LDM change only registers other than 15 and the states of devices that are not RAM. -/
theorem loadList_frame {l : List Reg} {a : Word} {acc r : Loaded} (h : loadList l a acc = .ok r) :
    r.state = { acc.state with regs := r.state.regs, periph := r.state.periph, busTick := r.state.busTick } ∧
      r.state.regs.get Reg.pc = acc.state.regs.get Reg.pc ∧
      (Reg.pc ∉ l → r.pcValue = acc.pcValue) ∧ (acc.pcValue.isSome ∨ Reg.pc ∈ l → r.pcValue.isSome) := by
  induction l generalizing a acc with
  | nil => cases h; simp
  | cons i rest ih =>
    simp only [loadList] at h
    split at h
    · cases h
    · rename_i v t hr
      have hf := readWord_frame hr
      split at h
      · rename_i hi
        obtain ⟨h1, h2, h3, h4⟩ := ih h
        refine ⟨?_, ?_, ?_, ?_⟩
        · rw [h1, hf]
        · rw [h2, hf]
        · intro hm; simp [hi] at hm
        · intro _; exact h4 (by simp)
      · rename_i hi
        obtain ⟨h1, h2, h3, h4⟩ := ih h
        refine ⟨?_, ?_, ?_, ?_⟩
        · rw [h1, hf]
          simp [State.writeReg, hi]
        · rw [h2, writeReg_get, if_neg (Ne.symm hi), hf]
        · intro hm
          simp only [List.mem_cons, not_or] at hm
          exact h3 hm.2
        · intro hm
          refine h4 ?_
          rcases hm with hm | hm
          · exact .inl hm
          · exact .inr (by simpa [Ne.symm hi] using hm)

theorem loadList_wf {l : List Reg} {a : Word} {acc r : Loaded} (h : loadList l a acc = .ok r)
    (hp : cellsWf periphDefault acc.state.periph = true) : cellsWf periphDefault r.state.periph = true := by
  induction l generalizing a acc with
  | nil => cases h; exact hp
  | cons i rest ih =>
    simp only [loadList] at h
    split at h
    · cases h
    · rename_i v t hr
      obtain ⟨w, hw, -⟩ := readWord_ok hr
      split at h
      · exact ih h (busRead_wf hw hp)
      · exact ih h (by simpa using busRead_wf hw hp)

/-- The transfers of an STM change only memory and the states of other devices. -/
theorem storeList_frame {l : List Reg} {a : Word} {s t : State} (h : storeList l a s = .ok t) :
    t = { s with mem := t.mem, periph := t.periph, busTick := t.busTick } := by
  induction l generalizing a s with
  | nil => cases h; rfl
  | cons i rest ih =>
    simp only [storeList] at h
    split at h
    · cases h
    · rename_i u hw
      rw [ih h, busWrite_frame hw]

theorem storeList_wf {l : List Reg} {a : Word} {s t : State} (h : storeList l a s = .ok t)
    (hm : Memory.wf s.mem = true) (hp : cellsWf periphDefault s.periph = true) :
    Memory.wf t.mem = true ∧ cellsWf periphDefault t.periph = true := by
  induction l generalizing a s with
  | nil => cases h; exact ⟨hm, hp⟩
  | cons i rest ih =>
    simp only [storeList] at h
    split at h
    · cases h
    · rename_i u hw
      obtain ⟨h1, h2⟩ := busWrite_wf hw hm hp
      exact ih h h1 h2

/-! ## Coprocessors -/

theorem coprocessorAccess_next {c : Cond} {cp : Fin 16} {id : BitVec 16} {s t : State} {body : Word → State}
    (h : coprocessorAccess c cp id s body = .next t) :
    t = s ∨ t = undefinedEntry s ∨ ∃ v, getCReg cp id s = some v ∧ t = body v := by
  obtain ⟨-, h⟩ | ⟨-, h⟩ := conditional_next h
  · split at h
    · cases h; exact .inr (.inl rfl)
    · cases h; exact .inr (.inr ⟨_, ‹_›, rfl⟩)
  · exact .inl h

@[simp] theorem bankSet_ids (b : Bank) (id : BitVec 16) (v : Word) : (bankSet b id v).ids = b.ids := by
  simp only [bankSet, Bank.ids, List.map_map]
  apply List.map_congr_left
  intro e _
  simp only [Function.comp]
  split <;> rfl

/-- Being a finite map is a matter of the ids only. -/
theorem Bank.wf_congr {b b' : Bank} (h : b.ids = b'.ids) : Bank.wf b = Bank.wf b' := by
  induction b generalizing b' with
  | nil =>
    cases b' with
    | nil => rfl
    | cons e r => simp [Bank.ids] at h
  | cons e r ih =>
    cases b' with
    | nil => simp [Bank.ids] at h
    | cons e' r' =>
      obtain ⟨i, v⟩ := e
      obtain ⟨i', v'⟩ := e'
      simp only [Bank.ids, List.map_cons, List.cons.injEq] at h
      obtain ⟨rfl, h2⟩ := h
      have ha : ∀ q : Bank, q.all (fun e => decide (i.toNat < e.1.toNat)) =
          (Bank.ids q).all (fun k => decide (i.toNat < k.toNat)) := by
        intro q; simp [Bank.ids, List.all_map, Function.comp_def]
      simp only [Bank.wf, ha, ih h2]
      rw [show Bank.ids r = Bank.ids r' from h2]

@[simp] theorem bankSet_wf (b : Bank) (id : BitVec 16) (v : Word) : Bank.wf (bankSet b id v) = Bank.wf b :=
  Bank.wf_congr (bankSet_ids b id v)

@[simp] theorem cdpBank_ids (d : CdpOperand) (s : State) (b : Bank) : (cdpBank d s b).ids = b.ids := by
  simp only [cdpBank]
  split
  · rfl
  · simp [Bank.ids, List.map_map, Function.comp_def]

/-- R43: read after write within one bank. -/
theorem bankGet_bankSet (b : Bank) (id : BitVec 16) (v : Word) (k : BitVec 16) :
    bankGet (bankSet b id v) k = if k = id then (bankGet b k).map (fun _ => v) else bankGet b k := by
  induction b with
  | nil => simp [bankSet, bankGet]
  | cons e r ih =>
    obtain ⟨i, w⟩ := e
    simp only [bankSet, List.map_cons] at ih ⊢
    by_cases hi : i = id
    · subst hi
      simp only [if_true, bankGet, ih]
      by_cases hk : i = k
      · subst hk; simp
      · simp [hk, Ne.symm hk]
    · simp only [if_neg hi, bankGet, ih]
      by_cases hk : i = k
      · subst hk; simp [hi]
      · simp [hk]

/-- A bank found in a well-formed slot vector is well formed. -/
theorem coprocWf_get {v : Vector (Option Bank) 16} {cp : Fin 16} {b : Bank} (h : coprocWf v = true)
    (hb : v.get cp = some b) : Bank.wf b = true := by
  simp only [coprocWf, List.all_eq_true] at h
  have := h (v.get cp) (by simp [Vector.get_eq_getElem])
  rw [hb] at this
  exact this

theorem coprocWf_set {v : Vector (Option Bank) 16} {n : Nat} (hn : n < 16) {b : Bank} (h : coprocWf v = true)
    (hb : Bank.wf b = true) : coprocWf (v.set n (some b) hn) = true := by
  simp only [coprocWf, List.all_eq_true] at h ⊢
  intro x hx
  rw [Vector.mem_toList_iff] at hx
  obtain ⟨k, hk, rfl⟩ := Vector.getElem_of_mem hx
  by_cases hh : n = k
  · subst hh; simp [hb]
  · rw [Vector.getElem_set_ne _ _ hh]; exact h _ (by simp)

/-! ## All that an instruction can do -/

/-- `u` is `s` after reads of devices: nothing changed but the states of devices that are not RAM, kept in canonical form. -/
structure ReadsOnly (s u : State) : Prop where
  frame : u = { s with periph := u.periph, busTick := u.busTick }
  wf : cellsWf periphDefault s.periph = true → cellsWf periphDefault u.periph = true

/-- `u` is `s` after writes to devices: nothing changed but memory and the states of other devices, kept in canonical form. -/
structure WritesBus (s u : State) : Prop where
  frame : u = { s with mem := u.mem, periph := u.periph, busTick := u.busTick }
  wf : Memory.wf s.mem = true → cellsWf periphDefault s.periph = true →
    Memory.wf u.mem = true ∧ cellsWf periphDefault u.periph = true

/-- `l` is what the transfers of an LDM with the given list leave of `s`. -/
structure LoadsList (list : BitVec 16) (s : State) (l : Loaded) : Prop where
  frame : l.state = { s with regs := l.state.regs, periph := l.state.periph, busTick := l.state.busTick }
  pc : l.state.regs.get Reg.pc = s.regs.get Reg.pc
  pcValue : l.pcValue.isSome = list.getLsbD 15
  wf : cellsWf periphDefault s.periph = true → cellsWf periphDefault l.state.periph = true

theorem pc_mem_regList (l : BitVec 16) : Reg.pc ∈ regList l ↔ l.getLsbD 15 = true := by
  simp [regList, allRegs, Reg.pc]

theorem readWord_readsOnly {a v : Word} {s u : State} (h : readWord a s = .ok (v, u)) : ReadsOnly s u := by
  obtain ⟨w, hw, -⟩ := readWord_ok h
  exact ⟨busRead_frame hw, busRead_wf hw⟩

theorem readByteBus_readsOnly {a : Word} {v : Byte} {s u : State} (h : readByteBus a s = .ok (v, u)) :
    ReadsOnly s u := by
  obtain ⟨w, hw, -⟩ := readByteBus_ok h
  exact ⟨busRead_frame hw, busRead_wf hw⟩

theorem busWrite_writesBus {a : Addr} {d : Nat} {v : BitVec 64} {s u : State} (h : busWrite a d v s = .ok u) :
    WritesBus s u :=
  ⟨busWrite_frame h, busWrite_wf h⟩

theorem storeList_writesBus {l : List Reg} {a : Word} {s u : State} (h : storeList l a s = .ok u) : WritesBus s u :=
  ⟨storeList_frame h, storeList_wf h⟩

theorem loadList_loadsList {list : BitVec 16} {a : Word} {s : State} {l : Loaded}
    (h : loadList (regList list) a { pcValue := none, state := s } = .ok l) : LoadsList list s l := by
  obtain ⟨h1, h2, h3, h4⟩ := loadList_frame h
  refine ⟨h1, h2, ?_, loadList_wf h⟩
  cases hp : list.getLsbD 15
  · rw [h3 (by rw [pc_mem_regList, hp]; simp)]; rfl
  · exact h4 (.inr ((pc_mem_regList _).2 hp))

/-- The S bit, whether Rd is written, and Rd, of a data-processing instruction. -/
def dpInfo : Instr → Option (Bool × Bool × Reg)
  | .andImm _ sf _ rd _ | .andShift _ sf _ rd _ | .eorImm _ sf _ rd _ | .eorShift _ sf _ rd _
  | .subImm _ sf _ rd _ | .subShift _ sf _ rd _ | .rsbImm _ sf _ rd _ | .rsbShift _ sf _ rd _
  | .addImm _ sf _ rd _ | .addShift _ sf _ rd _ | .adcImm _ sf _ rd _ | .adcShift _ sf _ rd _
  | .sbcImm _ sf _ rd _ | .sbcShift _ sf _ rd _ | .rscImm _ sf _ rd _ | .rscShift _ sf _ rd _
  | .orrImm _ sf _ rd _ | .orrShift _ sf _ rd _ | .movImm _ sf _ rd _ | .movShift _ sf _ rd _
  | .bicImm _ sf _ rd _ | .bicShift _ sf _ rd _ | .mvnImm _ sf _ rd _ | .mvnShift _ sf _ rd _ => some (sf, true, rd)
  | .tstImm _ _ rd _ | .tstShift _ _ rd _ | .teqImm _ _ rd _ | .teqShift _ _ rd _
  | .cmpImm _ _ rd _ | .cmpShift _ _ rd _ | .cmnImm _ _ rd _ | .cmnShift _ _ rd _ => some (true, false, rd)
  | _ => none

/-- All that an instruction can do when it answers a next state, one constructor per kind of effect. -/
inductive Effect : Instr → State → State → Prop
  | nothing (i : Instr) (s : State) : Effect i s s
  | undef (i : Instr) (s : State)
      (h : i = .undefinedNv ∨ (∃ c d, i = .cdp c d) ∨ (∃ c d, i = .mcr c d) ∨ ∃ c d, i = .mrc c d) :
      Effect i s (undefinedEntry s)
  | dp (i : Instr) (s : State) (sf w : Bool) (rd : Reg) (r : Word) (k : FlagClass) (h : dpInfo i = some (sf, w, rd)) :
      Effect i s (writeBack sf rd r k w s)
  | mrs (c : Cond) (r : Bool) (rd : Reg) (s : State) (v : Word) : Effect (.mrs c r rd) s (s.writeReg rd v)
  | msrReg (c : Cond) (r : Bool) (mask : BitVec 4) (rm : Reg) (s : State) (v : Word) :
      Effect (.msrReg c r mask rm) s (statusWrite r mask v s)
  | msrImm (c : Cond) (r : Bool) (mask : BitVec 4) (op : ImmOperand) (s : State) (v : Word) :
      Effect (.msrImm c r mask op) s (statusWrite r mask v s)
  | ldr (c : Cond) (m : LsOperand) (s u : State) (x : Word) (h : ReadsOnly s u) :
      Effect (.ldr c m) s (writeLoaded m.rd x (baseUpdate m (address m s) u))
  | ldrb (c : Cond) (m : LsOperand) (s u : State) (x : Word) (h : ReadsOnly s u) :
      Effect (.ldrb c m) s ((baseUpdate m (address m s) u).writeReg m.rd x)
  | str (c : Cond) (m : LsOperand) (s u : State) (h : WritesBus s u) :
      Effect (.str c m) s (baseUpdate m (address m s) u)
  | strb (c : Cond) (m : LsOperand) (s u : State) (h : WritesBus s u) :
      Effect (.strb c m) s (baseUpdate m (address m s) u)
  | ldm (c : Cond) (m : LsmOperand) (s : State) (l : Loaded) (wb : Word) (h : LoadsList m.list s l) :
      Effect (.ldm c m) s (finishLoad m wb l)
  | stm (c : Cond) (m : LsmOperand) (s u : State) (wb : Word) (h : WritesBus s u) :
      Effect (.stm c m) s (multipleUpdate m wb u)
  | b (c : Cond) (o : BitVec 24) (s : State) (v : Word) : Effect (.b c o) s (branchBy v s)
  | bl (c : Cond) (o : BitVec 24) (s : State) (v : Word) : Effect (.bl c o) s (branchBy v (saveReturn s))
  | blx (h : Bool) (o : BitVec 24) (s : State) (v : Word) :
      Effect (.blx h o) s { branchBy v (saveReturn s) with cpsr := withT s.cpsr true }
  | cdp (c : Cond) (d : CdpOperand) (s : State) : Effect (.cdp c d) s (cdpEffect d s)
  | mcr (c : Cond) (d : CpOperand) (s : State) (v : Word) : Effect (.mcr c d) s (setCReg d.cp (cpId d) v s)
  | mrcFlags (c : Cond) (d : CpOperand) (s : State) (f : BitVec 4) (h : d.rd = Reg.pc) :
      Effect (.mrc c d) s { s with cpsr := withTop s.cpsr f }
  | mrc (c : Cond) (d : CpOperand) (s : State) (v : Word) (h : d.rd ≠ Reg.pc) :
      Effect (.mrc c d) s (s.writeReg d.rd v)

theorem Effect.ofDp {i : Instr} {s t : State} {sf w : Bool} {rd : Reg} (hi : dpInfo i = some (sf, w, rd))
    (h : t = s ∨ ∃ r k, t = writeBack sf rd r k w s) : Effect i s t := by
  obtain rfl | ⟨r, k, rfl⟩ := h
  · exact .nothing ..
  · exact .dp i s sf w rd r k hi

/-- The inversion of `exec`: provers take a step apart with this, not by unfolding the meanings. -/
theorem exec_effect {i : Instr} {s t : State} (h : exec i s = .next t) : Effect i s t := by
  cases i
  case blx => cases h; exact .blx ..
  case undefinedNv => cases h; exact .undef _ _ (by simp)
  case dpRegisterShift => cases h
  case multiplyExtendedSpace => cases h
  case lsRegisterOffset => cases h
  case mrs =>
    obtain ⟨-, h⟩ | h := unlisted_next h
    · obtain ⟨-, h⟩ | ⟨-, h⟩ := conditional_next h
      · split at h <;> cases h; exact .mrs ..
      · subst h; exact .nothing ..
    · subst h; exact .nothing ..
  case msrReg =>
    obtain ⟨-, h⟩ | ⟨-, h⟩ := conditional_next h
    · cases h; exact .msrReg ..
    · subst h; exact .nothing ..
  case msrImm =>
    obtain ⟨-, h⟩ | ⟨-, h⟩ := conditional_next h
    · cases h; exact .msrImm ..
    · subst h; exact .nothing ..
  case dpImmediateEmptySlot => rw [raiseUnsupported_next h]; exact .nothing ..
  case swi => rw [raiseUnsupported_next h]; exact .nothing ..
  case ldcStc => rw [raiseUnsupported_next h]; exact .nothing ..
  case lsmSBit => rw [raiseUnsupported_next h]; exact .nothing ..
  case ldr =>
    simp only [exec, execLdr] at h
    obtain rfl | ⟨-, h⟩ := singleTransfer_next h
    · exact .nothing ..
    · split at h <;> cases h
      exact .ldr _ _ _ _ _ (readWord_readsOnly ‹_›)
  case ldrb =>
    obtain ⟨-, h⟩ | rfl := unlisted_next h
    · obtain rfl | ⟨-, h⟩ := singleTransfer_next h
      · exact .nothing ..
      · split at h <;> cases h
        exact .ldrb _ _ _ _ _ (readByteBus_readsOnly ‹_›)
    · exact .nothing ..
  case str =>
    simp only [exec, execStr] at h
    obtain rfl | ⟨-, h⟩ := singleTransfer_next h
    · exact .nothing ..
    · split at h <;> cases h
      exact .str _ _ _ _ (busWrite_writesBus ‹_›)
  case strb =>
    obtain ⟨-, h⟩ | rfl := unlisted_next h
    · obtain rfl | ⟨-, h⟩ := singleTransfer_next h
      · exact .nothing ..
      · split at h <;> cases h
        exact .strb _ _ _ _ (busWrite_writesBus ‹_›)
    · exact .nothing ..
  case ldm =>
    obtain rfl | ⟨-, h⟩ := multipleTransfer_next h
    · exact .nothing ..
    · split at h <;> cases h
      exact .ldm _ _ _ _ _ (loadList_loadsList ‹_›)
  case stm =>
    obtain rfl | ⟨-, h⟩ := multipleTransfer_next h
    · exact .nothing ..
    · split at h <;> cases h
      exact .stm _ _ _ _ _ (storeList_writesBus ‹_›)
  case b =>
    obtain ⟨-, h⟩ | ⟨-, h⟩ := conditional_next h
    · cases h; exact .b ..
    · subst h; exact .nothing ..
  case bl =>
    obtain ⟨-, h⟩ | ⟨-, h⟩ := conditional_next h
    · cases h; exact .bl ..
    · subst h; exact .nothing ..
  case cdp =>
    obtain rfl | rfl | ⟨v, -, rfl⟩ := coprocessorAccess_next h
    · exact .nothing ..
    · exact .undef _ _ (by simp)
    · exact .cdp ..
  case mcr =>
    obtain rfl | rfl | ⟨v, -, rfl⟩ := coprocessorAccess_next h
    · exact .nothing ..
    · exact .undef _ _ (by simp)
    · exact .mcr ..
  case mrc =>
    obtain rfl | rfl | ⟨v, -, rfl⟩ := coprocessorAccess_next h
    · exact .nothing ..
    · exact .undef _ _ (by simp)
    · split
      · exact .mrcFlags _ _ _ _ ‹_›
      · exact .mrc _ _ _ _ ‹_›
  case andImm => exact .ofDp rfl (dpLogical_next h)
  case andShift => exact .ofDp rfl (dpLogical_next h)
  case eorImm => exact .ofDp rfl (unlisted_dpLogical_next h)
  case eorShift => exact .ofDp rfl (unlisted_dpLogical_next h)
  case subImm => exact .ofDp rfl (dpArithmetic_next h)
  case subShift => exact .ofDp rfl (dpArithmetic_next h)
  case rsbImm => exact .ofDp rfl (dpArithmetic_next h)
  case rsbShift => exact .ofDp rfl (dpArithmetic_next h)
  case addImm => exact .ofDp rfl (dpArithmetic_next h)
  case addShift => exact .ofDp rfl (dpArithmetic_next h)
  case adcImm => exact .ofDp rfl (dpArithmetic_next h)
  case adcShift => exact .ofDp rfl (dpArithmetic_next h)
  case sbcImm => exact .ofDp rfl (dpArithmetic_next h)
  case sbcShift => exact .ofDp rfl (dpArithmetic_next h)
  case rscImm => exact .ofDp rfl (dpArithmetic_next h)
  case rscShift => exact .ofDp rfl (dpArithmetic_next h)
  case tstImm => exact .ofDp rfl (dpLogical_next h)
  case tstShift => exact .ofDp rfl (dpLogical_next h)
  case teqImm => exact .ofDp rfl (dpLogical_next h)
  case teqShift => exact .ofDp rfl (dpLogical_next h)
  case cmpImm => exact .ofDp rfl (dpArithmetic_next h)
  case cmpShift => exact .ofDp rfl (dpArithmetic_next h)
  case cmnImm => exact .ofDp rfl (unlisted_dpArithmetic_next h)
  case cmnShift => exact .ofDp rfl (unlisted_dpArithmetic_next h)
  case orrImm => exact .ofDp rfl (dpLogical_next h)
  case orrShift => exact .ofDp rfl (dpLogical_next h)
  case movImm => exact .ofDp rfl (dpLogical_next h)
  case movShift => exact .ofDp rfl (dpLogical_next h)
  case bicImm => exact .ofDp rfl (dpLogical_next h)
  case bicShift => exact .ofDp rfl (dpLogical_next h)
  case mvnImm => exact .ofDp rfl (dpLogical_next h)
  case mvnShift => exact .ofDp rfl (dpLogical_next h)

/-! ## What a stop keeps -/

/-- The slots after a stop are the old ones, each id with a new value. -/
theorem unspecifiedCoproc_get (e : StopEvent) (s : State) (cp : Fin 16) :
    (unspecifiedCoproc e s).get cp
      = (s.coproc.get cp).map fun b => b.map fun x => (x.1, Config.afterStopCReg e s cp x.1) := by
  simp [unspecifiedCoproc, Vector.get_eq_getElem]

theorem map_values_ids (b : Bank) (f : BitVec 16 → Word) : Bank.ids (b.map fun x => (x.1, f x.1)) = b.ids := by
  simp [Bank.ids, Function.comp_def]

theorem unspecifiedCoproc_wf {e : StopEvent} {s : State} (h : coprocWf s.coproc = true) :
    coprocWf (unspecifiedCoproc e s) = true := by
  simp only [coprocWf, List.all_eq_true]
  intro x hx
  rw [Vector.mem_toList_iff] at hx
  obtain ⟨k, hk, rfl⟩ := Vector.getElem_of_mem hx
  have hget := unspecifiedCoproc_get e s ⟨k, hk⟩
  rw [Vector.get_eq_getElem] at hget
  rw [hget]
  cases hb : s.coproc.get ⟨k, hk⟩ with
  | none => rfl
  | some b =>
    show Bank.wf (b.map fun x => (x.1, Config.afterStopCReg e s ⟨k, hk⟩ x.1)) = true
    rw [Bank.wf_congr (map_values_ids b _)]
    exact coprocWf_get h hb

/-- A stopped core's state is in canonical form, its table and banks well formed, as before. -/
theorem stopCore_wf {e : StopEvent} {c : StopStatus} {s : State} (h : WfState s) : WfState (stopCore e c s) :=
  ⟨cellsOf_wf _ _, cellsOf_wf _ _, h.2.2.1, unspecifiedCoproc_wf h.2.2.2⟩

/-- A stop registers no coprocessor id and removes none (R40). -/
theorem stopCore_registeredIds (e : StopEvent) (c : StopStatus) (s : State) :
    registeredIds (stopCore e c s) = registeredIds s := by
  simp only [registeredIds, stopCore_coproc]
  apply List.ext_getElem (by simp)
  intro k h1 h2
  have hk : k < 16 := by simpa using h1
  have hget := unspecifiedCoproc_get e s ⟨k, hk⟩
  simp only [Vector.get_eq_getElem] at hget
  simp only [List.getElem_map, Vector.getElem_toList, hget]
  cases s.coproc[k] with
  | none => rfl
  | some b => exact congrArg some (map_values_ids b _)

/-! ## The composite coprocessor id -/

/-- The four nibbles as one number (R41). -/
theorem compositeId_toNat (crn opcode1 crm opcode2 : BitVec 4) :
    (compositeId crn opcode1 crm opcode2).toNat
      = 4096 * crn.toNat + 256 * opcode1.toNat + 16 * crm.toNat + opcode2.toNat := by
  rw [compositeId, BitVec.toNat_append, ← Nat.shiftLeft_add_eq_or_of_lt opcode2.isLt, BitVec.toNat_append,
    ← Nat.shiftLeft_add_eq_or_of_lt crm.isLt, BitVec.toNat_append, ← Nat.shiftLeft_add_eq_or_of_lt opcode1.isLt]
  simp only [Nat.shiftLeft_eq]
  omega

end Sys2Proof.Machine
end

