-- ==== Sys2Proof/Laws/PerInstr.lean ====
section
/-! SUPPORT. The per-instruction family CondField: bits [31:28] of an instruction's word are its condition, 1111 where it has
none (R102, R104, R140). -/

namespace Sys2Proof.Laws.CondField

/-- The four top bits of the encoding. -/
def Statement (i : Instr) : Prop :=
  (encode i).toNat / 2 ^ 28 = match i.cond? with
    | some c => c.code
    | none => 15

theorem of_top {i : Instr} {c : Cond} {rest : List (Nat × Nat)} (hc : i.cond? = some c)
    (he : encode i = pack ((4, c.code) :: rest)) (h : FieldsFit rest 28) : Statement i := by
  rw [Statement, he, hc]
  exact pack_top (Nat.lt_succ_of_lt c.code_lt) h

/-- The low bits of format DPI fit. -/
theorem fit_imm (op : ImmOperand) : FieldsFit (packImm op) 12 := by
  have := op.rot.isLt; have := op.imm8.isLt
  simp only [packImm, fieldsFit_cons, fieldsFit_nil, and_true]
  omega

/-- The low bits of format DPS fit. -/
theorem fit_shift (op : ShiftOperand) : FieldsFit (packShift op) 12 := by
  have := op.amount.isLt; have := op.kind.code_lt; have := op.rm.isLt
  simp only [packShift, fieldsFit_cons, fieldsFit_nil, and_true]
  omega

/-- Any data-processing word. -/
theorem of_dp {i : Instr} {c : Cond} {form opcode : Nat} {sf : Bool} {rn rd : Reg} {low : List (Nat × Nat)}
    (hc : i.cond? = some c) (he : encode i = packDp c form opcode sf rn rd low) (hl : FieldsFit low 12)
    (hf : form < 8) (ho : opcode < 16) : Statement i := by
  refine of_top (rest := [(3, form), (4, opcode), (1, sf.toNat), (4, rn.val), (4, rd.val)] ++ low) hc (by rw [he]; rfl) ?_
  have := sf.toNat_lt; have := rn.isLt; have := rd.isLt
  simp only [List.cons_append, List.nil_append, fieldsFit_cons]
  exact ⟨hf, by omega, ho, by omega, by omega, by omega, by omega, by omega, by omega, by omega, hl⟩

theorem blx (h : Bool) (offset : BitVec 24) : Statement (.blx h offset) := by
  have h0 := h.toNat_lt; have h1 := offset.isLt
  simp only [Statement, encode, Instr.cond?, toNat_pack, List.foldl]
  omega

theorem undefinedNv : Statement .undefinedNv := rfl

theorem dpRegisterShift (c : Cond) (opcode : BitVec 4) (sf : Bool) (rn rd rs : Reg) (kind : ShiftKind) (rm : Reg) : Statement (.dpRegisterShift c opcode sf rn rd rs kind rm) := by
  refine of_top (rest := [(3, 0), (4, opcode.toNat), (1, sf.toNat), (4, rn.val), (4, rd.val), (4, rs.val), (1, 0), (2, kind.code),
    (1, 1), (4, rm.val)]) rfl rfl ?_
  have := opcode.isLt; have := sf.toNat_lt; have := rn.isLt; have := rd.isLt; have := rs.isLt; have := kind.code_lt; have := rm.isLt
  simp only [fieldsFit_cons, fieldsFit_nil, and_true]
  omega

theorem multiplyExtendedSpace (c : Cond) : Statement (.multiplyExtendedSpace c) := by
  refine of_top rfl rfl ?_
  simp only [fieldsFit_cons, fieldsFit_nil, and_true]
  omega

theorem mrs (c : Cond) (r : Bool) (rd : Reg) : Statement (.mrs c r rd) := by
  refine of_top rfl rfl ?_
  have := r.toNat_lt; have := rd.isLt
  simp only [fieldsFit_cons, fieldsFit_nil, and_true]
  omega

theorem msrReg (c : Cond) (r : Bool) (mask : BitVec 4) (rm : Reg) : Statement (.msrReg c r mask rm) := by
  refine of_top rfl rfl ?_
  have := r.toNat_lt; have := mask.isLt; have := rm.isLt
  simp only [fieldsFit_cons, fieldsFit_nil, and_true]
  omega

theorem msrImm (c : Cond) (r : Bool) (mask : BitVec 4) (op : ImmOperand) : Statement (.msrImm c r mask op) := by
  refine of_top (rest := [(5, 6), (1, r.toNat), (2, 2), (4, mask.toNat), (4, 15), (4, op.rot.toNat), (8, op.imm8.toNat)]) rfl rfl ?_
  have := r.toNat_lt; have := mask.isLt; have := op.rot.isLt; have := op.imm8.isLt
  simp only [fieldsFit_cons, fieldsFit_nil, and_true]
  omega

theorem dpImmediateEmptySlot (c : Cond) : Statement (.dpImmediateEmptySlot c) := by
  refine of_top rfl rfl ?_
  simp only [fieldsFit_cons, fieldsFit_nil, and_true]
  omega

theorem andImm (c : Cond) (sf : Bool) (rn rd : Reg) (op : ImmOperand) : Statement (.andImm c sf rn rd op) :=
  of_dp rfl rfl (fit_imm op) (by decide) (by decide)

theorem andShift (c : Cond) (sf : Bool) (rn rd : Reg) (op : ShiftOperand) : Statement (.andShift c sf rn rd op) :=
  of_dp rfl rfl (fit_shift op) (by decide) (by decide)

theorem eorImm (c : Cond) (sf : Bool) (rn rd : Reg) (op : ImmOperand) : Statement (.eorImm c sf rn rd op) :=
  of_dp rfl rfl (fit_imm op) (by decide) (by decide)

theorem eorShift (c : Cond) (sf : Bool) (rn rd : Reg) (op : ShiftOperand) : Statement (.eorShift c sf rn rd op) :=
  of_dp rfl rfl (fit_shift op) (by decide) (by decide)

theorem subImm (c : Cond) (sf : Bool) (rn rd : Reg) (op : ImmOperand) : Statement (.subImm c sf rn rd op) :=
  of_dp rfl rfl (fit_imm op) (by decide) (by decide)

theorem subShift (c : Cond) (sf : Bool) (rn rd : Reg) (op : ShiftOperand) : Statement (.subShift c sf rn rd op) :=
  of_dp rfl rfl (fit_shift op) (by decide) (by decide)

theorem rsbImm (c : Cond) (sf : Bool) (rn rd : Reg) (op : ImmOperand) : Statement (.rsbImm c sf rn rd op) :=
  of_dp rfl rfl (fit_imm op) (by decide) (by decide)

theorem rsbShift (c : Cond) (sf : Bool) (rn rd : Reg) (op : ShiftOperand) : Statement (.rsbShift c sf rn rd op) :=
  of_dp rfl rfl (fit_shift op) (by decide) (by decide)

theorem addImm (c : Cond) (sf : Bool) (rn rd : Reg) (op : ImmOperand) : Statement (.addImm c sf rn rd op) :=
  of_dp rfl rfl (fit_imm op) (by decide) (by decide)

theorem addShift (c : Cond) (sf : Bool) (rn rd : Reg) (op : ShiftOperand) : Statement (.addShift c sf rn rd op) :=
  of_dp rfl rfl (fit_shift op) (by decide) (by decide)

theorem adcImm (c : Cond) (sf : Bool) (rn rd : Reg) (op : ImmOperand) : Statement (.adcImm c sf rn rd op) :=
  of_dp rfl rfl (fit_imm op) (by decide) (by decide)

theorem adcShift (c : Cond) (sf : Bool) (rn rd : Reg) (op : ShiftOperand) : Statement (.adcShift c sf rn rd op) :=
  of_dp rfl rfl (fit_shift op) (by decide) (by decide)

theorem sbcImm (c : Cond) (sf : Bool) (rn rd : Reg) (op : ImmOperand) : Statement (.sbcImm c sf rn rd op) :=
  of_dp rfl rfl (fit_imm op) (by decide) (by decide)

theorem sbcShift (c : Cond) (sf : Bool) (rn rd : Reg) (op : ShiftOperand) : Statement (.sbcShift c sf rn rd op) :=
  of_dp rfl rfl (fit_shift op) (by decide) (by decide)

theorem rscImm (c : Cond) (sf : Bool) (rn rd : Reg) (op : ImmOperand) : Statement (.rscImm c sf rn rd op) :=
  of_dp rfl rfl (fit_imm op) (by decide) (by decide)

theorem rscShift (c : Cond) (sf : Bool) (rn rd : Reg) (op : ShiftOperand) : Statement (.rscShift c sf rn rd op) :=
  of_dp rfl rfl (fit_shift op) (by decide) (by decide)

theorem tstImm (c : Cond) (rn rd : Reg) (op : ImmOperand) : Statement (.tstImm c rn rd op) :=
  of_dp rfl rfl (fit_imm op) (by decide) (by decide)

theorem tstShift (c : Cond) (rn rd : Reg) (op : ShiftOperand) : Statement (.tstShift c rn rd op) :=
  of_dp rfl rfl (fit_shift op) (by decide) (by decide)

theorem teqImm (c : Cond) (rn rd : Reg) (op : ImmOperand) : Statement (.teqImm c rn rd op) :=
  of_dp rfl rfl (fit_imm op) (by decide) (by decide)

theorem teqShift (c : Cond) (rn rd : Reg) (op : ShiftOperand) : Statement (.teqShift c rn rd op) :=
  of_dp rfl rfl (fit_shift op) (by decide) (by decide)

theorem cmpImm (c : Cond) (rn rd : Reg) (op : ImmOperand) : Statement (.cmpImm c rn rd op) :=
  of_dp rfl rfl (fit_imm op) (by decide) (by decide)

theorem cmpShift (c : Cond) (rn rd : Reg) (op : ShiftOperand) : Statement (.cmpShift c rn rd op) :=
  of_dp rfl rfl (fit_shift op) (by decide) (by decide)

theorem cmnImm (c : Cond) (rn rd : Reg) (op : ImmOperand) : Statement (.cmnImm c rn rd op) :=
  of_dp rfl rfl (fit_imm op) (by decide) (by decide)

theorem cmnShift (c : Cond) (rn rd : Reg) (op : ShiftOperand) : Statement (.cmnShift c rn rd op) :=
  of_dp rfl rfl (fit_shift op) (by decide) (by decide)

theorem orrImm (c : Cond) (sf : Bool) (rn rd : Reg) (op : ImmOperand) : Statement (.orrImm c sf rn rd op) :=
  of_dp rfl rfl (fit_imm op) (by decide) (by decide)

theorem orrShift (c : Cond) (sf : Bool) (rn rd : Reg) (op : ShiftOperand) : Statement (.orrShift c sf rn rd op) :=
  of_dp rfl rfl (fit_shift op) (by decide) (by decide)

theorem movImm (c : Cond) (sf : Bool) (rn rd : Reg) (op : ImmOperand) : Statement (.movImm c sf rn rd op) :=
  of_dp rfl rfl (fit_imm op) (by decide) (by decide)

theorem movShift (c : Cond) (sf : Bool) (rn rd : Reg) (op : ShiftOperand) : Statement (.movShift c sf rn rd op) :=
  of_dp rfl rfl (fit_shift op) (by decide) (by decide)

theorem bicImm (c : Cond) (sf : Bool) (rn rd : Reg) (op : ImmOperand) : Statement (.bicImm c sf rn rd op) :=
  of_dp rfl rfl (fit_imm op) (by decide) (by decide)

theorem bicShift (c : Cond) (sf : Bool) (rn rd : Reg) (op : ShiftOperand) : Statement (.bicShift c sf rn rd op) :=
  of_dp rfl rfl (fit_shift op) (by decide) (by decide)

theorem mvnImm (c : Cond) (sf : Bool) (rn rd : Reg) (op : ImmOperand) : Statement (.mvnImm c sf rn rd op) :=
  of_dp rfl rfl (fit_imm op) (by decide) (by decide)

theorem mvnShift (c : Cond) (sf : Bool) (rn rd : Reg) (op : ShiftOperand) : Statement (.mvnShift c sf rn rd op) :=
  of_dp rfl rfl (fit_shift op) (by decide) (by decide)

theorem ldr (c : Cond) (m : LsOperand) : Statement (.ldr c m) := by
  refine of_top rfl rfl ?_
  have := m.p.toNat_lt; have := m.u.toNat_lt; have := m.w.toNat_lt; have := m.rn.isLt; have := m.rd.isLt; have := m.imm12.isLt
  simp only [Bool.toNat_true, Bool.toNat_false, fieldsFit_cons, fieldsFit_nil, and_true]
  omega

theorem str (c : Cond) (m : LsOperand) : Statement (.str c m) := by
  refine of_top rfl rfl ?_
  have := m.p.toNat_lt; have := m.u.toNat_lt; have := m.w.toNat_lt; have := m.rn.isLt; have := m.rd.isLt; have := m.imm12.isLt
  simp only [Bool.toNat_false, fieldsFit_cons, fieldsFit_nil, and_true]
  omega

theorem ldrb (c : Cond) (m : LsOperand) : Statement (.ldrb c m) := by
  refine of_top rfl rfl ?_
  have := m.p.toNat_lt; have := m.u.toNat_lt; have := m.w.toNat_lt; have := m.rn.isLt; have := m.rd.isLt; have := m.imm12.isLt
  simp only [Bool.toNat_true, fieldsFit_cons, fieldsFit_nil, and_true]
  omega

theorem strb (c : Cond) (m : LsOperand) : Statement (.strb c m) := by
  refine of_top rfl rfl ?_
  have := m.p.toNat_lt; have := m.u.toNat_lt; have := m.w.toNat_lt; have := m.rn.isLt; have := m.rd.isLt; have := m.imm12.isLt
  simp only [Bool.toNat_true, Bool.toNat_false, fieldsFit_cons, fieldsFit_nil, and_true]
  omega

theorem lsRegisterOffset (c : Cond) (p u b w l : Bool) (rn rd : Reg) (op : ShiftOperand) : Statement (.lsRegisterOffset c p u b w l rn rd op) := by
  refine of_top (rest := [(3, 3), (1, p.toNat), (1, u.toNat), (1, b.toNat), (1, w.toNat), (1, l.toNat), (4, rn.val), (4, rd.val),
    (5, op.amount.toNat), (2, op.kind.code), (1, 0), (4, op.rm.val)]) rfl rfl ?_
  have := p.toNat_lt; have := u.toNat_lt; have := b.toNat_lt; have := w.toNat_lt; have := l.toNat_lt; have := rn.isLt; have := rd.isLt; have := op.amount.isLt; have := op.kind.code_lt; have := op.rm.isLt
  simp only [fieldsFit_cons, fieldsFit_nil, and_true]
  omega

theorem ldm (c : Cond) (m : LsmOperand) : Statement (.ldm c m) := by
  refine of_top rfl rfl ?_
  have := m.p.toNat_lt; have := m.u.toNat_lt; have := m.w.toNat_lt; have := m.rn.isLt; have := m.list.isLt
  simp only [Bool.toNat_true, Bool.toNat_false, fieldsFit_cons, fieldsFit_nil, and_true]
  omega

theorem stm (c : Cond) (m : LsmOperand) : Statement (.stm c m) := by
  refine of_top rfl rfl ?_
  have := m.p.toNat_lt; have := m.u.toNat_lt; have := m.w.toNat_lt; have := m.rn.isLt; have := m.list.isLt
  simp only [Bool.toNat_false, fieldsFit_cons, fieldsFit_nil, and_true]
  omega

theorem lsmSBit (c : Cond) (l : Bool) (m : LsmOperand) : Statement (.lsmSBit c l m) := by
  refine of_top rfl rfl ?_
  have := l.toNat_lt; have := m.p.toNat_lt; have := m.u.toNat_lt; have := m.w.toNat_lt; have := m.rn.isLt; have := m.list.isLt
  simp only [Bool.toNat_true, fieldsFit_cons, fieldsFit_nil, and_true]
  omega

theorem b (c : Cond) (offset : BitVec 24) : Statement (.b c offset) := by
  refine of_top rfl rfl ?_
  have := offset.isLt
  simp only [fieldsFit_cons, fieldsFit_nil, and_true]
  omega

theorem bl (c : Cond) (offset : BitVec 24) : Statement (.bl c offset) := by
  refine of_top rfl rfl ?_
  have := offset.isLt
  simp only [fieldsFit_cons, fieldsFit_nil, and_true]
  omega

theorem ldcStc (c : Cond) (p u n w l : Bool) (rn : Reg) (crd : BitVec 4) (cp : Fin 16) (offset8 : BitVec 8) : Statement (.ldcStc c p u n w l rn crd cp offset8) := by
  refine of_top rfl rfl ?_
  have := p.toNat_lt; have := u.toNat_lt; have := n.toNat_lt; have := w.toNat_lt; have := l.toNat_lt; have := rn.isLt; have := crd.isLt; have := cp.isLt; have := offset8.isLt
  simp only [fieldsFit_cons, fieldsFit_nil, and_true]
  omega

theorem cdp (c : Cond) (d : CdpOperand) : Statement (.cdp c d) := by
  refine of_top rfl rfl ?_
  have := d.opcode1.isLt; have := d.crn.isLt; have := d.crd.isLt; have := d.cp.isLt; have := d.opcode2.isLt; have := d.crm.isLt
  simp only [fieldsFit_cons, fieldsFit_nil, and_true]
  omega

theorem mcr (c : Cond) (d : CpOperand) : Statement (.mcr c d) := by
  refine of_top rfl rfl ?_
  have := d.opcode1.isLt; have := d.crn.isLt; have := d.rd.isLt; have := d.cp.isLt; have := d.opcode2.isLt; have := d.crm.isLt
  simp only [Bool.toNat_false, fieldsFit_cons, fieldsFit_nil, and_true]
  omega

theorem mrc (c : Cond) (d : CpOperand) : Statement (.mrc c d) := by
  refine of_top rfl rfl ?_
  have := d.opcode1.isLt; have := d.crn.isLt; have := d.rd.isLt; have := d.cp.isLt; have := d.opcode2.isLt; have := d.crm.isLt
  simp only [Bool.toNat_true, fieldsFit_cons, fieldsFit_nil, and_true]
  omega

theorem swi (c : Cond) (number : BitVec 24) : Statement (.swi c number) := by
  refine of_top rfl rfl ?_
  have := number.isLt
  simp only [fieldsFit_cons, fieldsFit_nil, and_true]
  omega

end Sys2Proof.Laws.CondField
end

