-- ==== Sys2Proof/Tests/Slice0.lean ====
section
/-! SUPPORT. The model's own tests. Expected results come from spec/95_test_vectors.md (the section is named) or are worked out by
hand from the rule named; the words of the decode tests are filled in from the `encoding` strings of spec/opcode_table.json. The
witnesses at the end meet the hypotheses of the statements. -/

namespace Sys2Proof.Tests

open Sys2Proof Sys2Proof.Machine

/-! ## WellFormed: an ill-formed term for each check, refused -/

/-- A region of RAM. -/
def ram (base limit : Addr) (width : Nat) : Region :=
  { base := base, limit := limit, width := width, device := .ram }

/-- R6, WIDTHS: 24 is no width. -/
theorem test_wf_width : (ram 0 0xffff 24).wf = false := by decide
/-- R64: base above limit. -/
theorem test_wf_base_above_limit : (ram 0x2000 0x1fff 32).wf = false := by decide
/-- R64: base not a multiple of 8. -/
theorem test_wf_base_unaligned : (ram 4 0xffff 32).wf = false := by decide
/-- R64: limit + 1 not a multiple of 8. -/
theorem test_wf_limit_unaligned : (ram 0 0xfffb 32).wf = false := by decide
/-- R63: two regions that share addresses 0x1000 to 0x1fff, and two that share none. -/
theorem test_wf_overlap : AddressMap.wf [ram 0 0x1fff 32, ram 0x1000 0x2fff 32] = false ∧
    AddressMap.wf [ram 0x1000 0x2fff 32, ram 0 0xfff 64] = true := by decide
/-- R40: an id registered twice. -/
theorem test_wf_bank_twice : Bank.wf [(1, 5), (1, 6)] = false ∧ Bank.wf [(1, 5), (2, 6)] = true := by decide
/-- R40: ids out of order are not the canonical form. -/
theorem test_wf_bank_order : Bank.wf [(2, 5), (1, 6)] = false := by decide
/-- R6: an ill-formed bank in one slot makes the slots ill formed. -/
theorem test_wf_slots : coprocWf ((Vector.replicate 16 none).set 15 (some [(1, 5), (1, 6)])) = false := by decide
/-- Canonical memory lists no default byte and no address twice. -/
theorem test_wf_memory : Memory.wf [(4, 0)] = false ∧ Memory.wf [(4, 1), (4, 2)] = false ∧ Memory.wf [(4, 1), (9, 2)] = true := by
  decide
/-- U13: the host's construction refuses an ill-formed table. -/
theorem test_construct_refuses :
    hostConstruct { defaultConfig with addressMap := [ram 0 0x1fff 32, ram 0x1000 0x2fff 32] } (Vector.replicate 16 none)
      (Vector.replicate 16 0) 0 0 = none := by decide

/-! ## Decode: every constructor, by a word written out from the spec's encoding (x bits 1 in odd rows, 0 in even rows) -/

/-- Rows 1 to 4. -/
theorem test_decode_spaces :
    decode 0xfbb1234d = .blx true 0xb1234d ∧
    decode 0xf0000000 = .undefinedNv ∧
    decode 0x31b5a659 = .dpRegisterShift .cc 0xd true 5 10 6 .asr 9 ∧
    decode 0x30000090 = .multiplyExtendedSpace .cc := by
  decide

/-- Rows 5 to 8. -/
theorem test_decode_status :
    decode 0x314fafef = .mrs .cc true 10 ∧
    decode 0x31690009 = .msrReg .cc true 9 9 ∧
    decode 0x3369fba7 = .msrImm .cc true 9 { rot := 0xb, imm8 := 0xa7 } ∧
    decode 0x33000000 = .dpImmediateEmptySlot .cc := by
  decide

/-- AND, EOR, ORR, MOV, BIC, MVN. -/
theorem test_decode_logical :
    decode 0x3215aba7 = .andImm .cc true 5 10 { rot := 0xb, imm8 := 0xa7 } ∧
    decode 0x3015aac9 = .andShift .cc true 5 10 { amount := 0x15, kind := .asr, rm := 9 } ∧
    decode 0x3235aba7 = .eorImm .cc true 5 10 { rot := 0xb, imm8 := 0xa7 } ∧
    decode 0x3035aac9 = .eorShift .cc true 5 10 { amount := 0x15, kind := .asr, rm := 9 } ∧
    decode 0x3395aba7 = .orrImm .cc true 5 10 { rot := 0xb, imm8 := 0xa7 } ∧
    decode 0x3195aac9 = .orrShift .cc true 5 10 { amount := 0x15, kind := .asr, rm := 9 } ∧
    decode 0x33b5aba7 = .movImm .cc true 5 10 { rot := 0xb, imm8 := 0xa7 } ∧
    decode 0x31b5aac9 = .movShift .cc true 5 10 { amount := 0x15, kind := .asr, rm := 9 } ∧
    decode 0x33d5aba7 = .bicImm .cc true 5 10 { rot := 0xb, imm8 := 0xa7 } ∧
    decode 0x31d5aac9 = .bicShift .cc true 5 10 { amount := 0x15, kind := .asr, rm := 9 } ∧
    decode 0x33f5aba7 = .mvnImm .cc true 5 10 { rot := 0xb, imm8 := 0xa7 } ∧
    decode 0x31f5aac9 = .mvnShift .cc true 5 10 { amount := 0x15, kind := .asr, rm := 9 } := by
  decide

/-- SUB, RSB, ADD, ADC, SBC, RSC. -/
theorem test_decode_arithmetic :
    decode 0x3255aba7 = .subImm .cc true 5 10 { rot := 0xb, imm8 := 0xa7 } ∧
    decode 0x3055aac9 = .subShift .cc true 5 10 { amount := 0x15, kind := .asr, rm := 9 } ∧
    decode 0x3275aba7 = .rsbImm .cc true 5 10 { rot := 0xb, imm8 := 0xa7 } ∧
    decode 0x3075aac9 = .rsbShift .cc true 5 10 { amount := 0x15, kind := .asr, rm := 9 } ∧
    decode 0x3295aba7 = .addImm .cc true 5 10 { rot := 0xb, imm8 := 0xa7 } ∧
    decode 0x3095aac9 = .addShift .cc true 5 10 { amount := 0x15, kind := .asr, rm := 9 } ∧
    decode 0x32b5aba7 = .adcImm .cc true 5 10 { rot := 0xb, imm8 := 0xa7 } ∧
    decode 0x30b5aac9 = .adcShift .cc true 5 10 { amount := 0x15, kind := .asr, rm := 9 } ∧
    decode 0x32d5aba7 = .sbcImm .cc true 5 10 { rot := 0xb, imm8 := 0xa7 } ∧
    decode 0x30d5aac9 = .sbcShift .cc true 5 10 { amount := 0x15, kind := .asr, rm := 9 } ∧
    decode 0x32f5aba7 = .rscImm .cc true 5 10 { rot := 0xb, imm8 := 0xa7 } ∧
    decode 0x30f5aac9 = .rscShift .cc true 5 10 { amount := 0x15, kind := .asr, rm := 9 } := by
  decide

/-- TST, TEQ, CMP, CMN. -/
theorem test_decode_compare :
    decode 0x3315aba7 = .tstImm .cc 5 10 { rot := 0xb, imm8 := 0xa7 } ∧
    decode 0x3115aac9 = .tstShift .cc 5 10 { amount := 0x15, kind := .asr, rm := 9 } ∧
    decode 0x3335aba7 = .teqImm .cc 5 10 { rot := 0xb, imm8 := 0xa7 } ∧
    decode 0x3135aac9 = .teqShift .cc 5 10 { amount := 0x15, kind := .asr, rm := 9 } ∧
    decode 0x3355aba7 = .cmpImm .cc 5 10 { rot := 0xb, imm8 := 0xa7 } ∧
    decode 0x3155aac9 = .cmpShift .cc 5 10 { amount := 0x15, kind := .asr, rm := 9 } ∧
    decode 0x3375aba7 = .cmnImm .cc 5 10 { rot := 0xb, imm8 := 0xa7 } ∧
    decode 0x3175aac9 = .cmnShift .cc 5 10 { amount := 0x15, kind := .asr, rm := 9 } := by
  decide

/-- Rows 41 to 45. -/
theorem test_decode_load_store :
    decode 0x3535aa53 = .ldr .cc { p := true, u := false, w := true, rn := 5, rd := 10, imm12 := 0xa53 } ∧
    decode 0x3525aa53 = .str .cc { p := true, u := false, w := true, rn := 5, rd := 10, imm12 := 0xa53 } ∧
    decode 0x3575aa53 = .ldrb .cc { p := true, u := false, w := true, rn := 5, rd := 10, imm12 := 0xa53 } ∧
    decode 0x3565aa53 = .strb .cc { p := true, u := false, w := true, rn := 5, rd := 10, imm12 := 0xa53 } ∧
    decode 0x3735aad9 = .lsRegisterOffset .cc true false false true true 5 10 { amount := 0x15, kind := .asr, rm := 9 } := by
  decide

/-- Rows 46 to 48. -/
theorem test_decode_multiple :
    decode 0x3935a5c3 = .ldm .cc { p := true, u := false, w := true, rn := 5, list := 0xa5c3 } ∧
    decode 0x3925a5c3 = .stm .cc { p := true, u := false, w := true, rn := 5, list := 0xa5c3 } ∧
    decode 0x3975a5c3 = .lsmSBit .cc true { p := true, u := false, w := true, rn := 5, list := 0xa5c3 } := by
  decide

/-- Rows 49 and 50. -/
theorem test_decode_branch :
    decode 0x3ab1234d = .b .cc 0xb1234d ∧
    decode 0x3bb1234d = .bl .cc 0xb1234d := by
  decide

/-- Rows 51 to 55. -/
theorem test_decode_coprocessor :
    decode 0x3d35bd5a = .ldcStc .cc true false false true true 5 0xb 13 0x5a ∧
    decode 0x3e5cbdc3 = .cdp .cc { opcode1 := 5, crn := 0xc, crd := 0xb, cp := 13, opcode2 := 6, crm := 3 } ∧
    decode 0x3eacadd3 = .mcr .cc { opcode1 := 5, crn := 0xc, rd := 10, cp := 13, opcode2 := 6, crm := 3 } ∧
    decode 0x3ebcadd3 = .mrc .cc { opcode1 := 5, crn := 0xc, rd := 10, cp := 13, opcode2 := 6, crm := 3 } ∧
    decode 0x3fc0ffee = .swi .cc 0xc0ffee := by
  decide

/-- spec/95 section 2.12, the spot values of the first-match rule: the row of the decoded instruction. -/
theorem test_decode_spots :
    [0xfa000001, 0xfe000000, 0xe1000090, 0xe1200010, 0xe1000000, 0xe1400000, 0xe120f000, 0xe320f000, 0xe3100000,
      0xe1100000, 0xe1a00000, 0xe7000010, 0xe8500000, 0xee000010, 0xee100010, 0xee100000].map (fun w => (decode w).row) =
    [1, 2, 4, 3, 5, 5, 6, 7, 25, 26, 36, 45, 48, 53, 54, 52] := by decide

/-- R100: a row's bits laid out as bytes, and too few bytes. -/
theorem test_decode_bytes :
    decodeTableWord 32 0xef000001 = some (.swi .al 1) ∧ decodeTableWord 0 0xef000001 = some (decode 0) ∧
    decodeBytes [0x01, 0x00, 0x00] = .error .truncated ∧
    decodeBytes [0x01, 0x00, 0x00, 0xef, 0x77] = .ok (.swi .al 1, [0x77]) := by decide

/-! ## Steps: the conventions of spec/95 -/

/-- The start state of spec/95: the word at 0x1000, one 32-bit RAM region up to 0xffff, memory IMG. -/
def start (w : Word) (regs : List (Reg × Word)) (cpsr : Word := 0xd3) (spsr : Word := 0) : State :=
  let rf := regs.foldl (fun v e => v.set e.1.val e.2 e.1.isLt) ((Vector.replicate 16 (0 : Word)).set 15 0x1000)
  let mem := writeBytes [] 0x1000 4 w.toNat
  let mem := writeBytes mem 0x2000 4 0x11223344
  let mem := writeBytes mem 0x2004 4 0x55667788
  let mem := writeBytes mem 0x2008 4 0x99aabbcc
  let mem := writeBytes mem 0x200c 4 0xddeeff00
  { State.reset with
    regs := rf, cpsr := cpsr, spsr := spsr, mem := mem
    cfg := { defaultConfig with addressMap := [ram 0 0xffff 32] } }

/-- The same under UNLISTED_INSTRUCTIONS = implement. -/
def startImpl (w : Word) (regs : List (Reg × Word)) (cpsr : Word := 0xd3) (spsr : Word := 0) : State :=
  let s := start w regs cpsr spsr
  { s with cfg := { s.cfg with unlisted := .implement } }

/-- The same with coprocessor 15 of spec/95 section 2.10. -/
def startCp (w : Word) (regs : List (Reg × Word)) (cpsr : Word := 0xd3) (spsr : Word := 0) : State :=
  { start w regs cpsr spsr with
    coproc := (Vector.replicate 16 none).set 15 (some [(0x0000, 0x41069265), (0x1000, 0x00000078)]) }

/-- The same under ERROR_POLICY = continue. -/
def startGoOn (w : Word) : State :=
  let s := start w []
  { s with cfg := { s.cfg with errorPolicy := .carryOn } }

/-- The word of RAM at an address. -/
def wordAt (t : State) (a : Nat) : Nat :=
  readBytes t.mem a 4

/-- The step answers a next state with the given registers, CPSR, SPSR and jumped. -/
def gives (r : Result) (regs : List (Reg × Word)) (cpsr : Word := 0xd3) (jumped : Bool := false) (spsr : Word := 0) : Bool :=
  match r with
  | .next t => regs.all (fun e => t.regs.get e.1 == e.2) && t.cpsr == cpsr && t.jumped == jumped && t.spsr == spsr
  | _ => false

/-- The step answers a next state with the given words of memory. -/
def stores (r : Result) (words : List (Nat × Nat)) : Bool :=
  match r with
  | .next t => words.all fun e => wordAt t e.1 == e.2
  | _ => false

/-- The step answers a next state in which coprocessor 15 holds the value. -/
def cp15 (r : Result) (id : BitVec 16) (v : Word) : Bool :=
  match r with
  | .next t => getCReg 15 id t == some v
  | _ => false

/-- The step stops with the fault. -/
def faults (r : Result) (f : Fault) : Bool :=
  match r with
  | .fault g => f == g
  | _ => false

/-- The step is refused for the reason. -/
def refuses (r : Result) (q : Refusal) : Bool :=
  match r with
  | .refused p => p == q
  | _ => false

/-- 95 section 2.5. -/
theorem test_and_shift : gives (step (start 0xe0010002 [(1, 0xff00ff00), (2, 0x0ff00ff0)])) [(0, 0x0f000f00), (15, 0x1000)] = true := by decide

/-- 95 section 2.5: C from the shifter. -/
theorem test_and_flags : gives (step (start 0xe21104ff [(1, 0x80000001)])) [(0, 0x80000000)] (cpsr := 0xa00000d3) = true := by decide

/-- 95 section 2.5. -/
theorem test_eor_refused_by_default : faults (step (start 0xe0210002 [])) .unsupportedEncoding = true := by decide

/-- 95 section 2.5. -/
theorem test_eor_implemented : gives (step (startImpl 0xe0210002 [(1, 0xff00ff00), (2, 0x0ff00ff0)])) [(0, 0xf0f0f0f0)] = true := by decide

/-- 95 section 2.5: C = 0 on a borrow. -/
theorem test_sub_borrow : gives (step (start 0xe2510001 [])) [(0, 0xffffffff)] (cpsr := 0x800000d3) = true := by decide

/-- 95 section 2.5: CPSR from SPSR. -/
theorem test_sub_restore : gives (step (start 0xe25ef004 [(14, 0x2004)] (spsr := 0x8000001f))) [(15, 0x2000)] (cpsr := 0x8000001f) (jumped := true) (spsr := 0x8000001f) = true := by decide

/-- 95 section 2.5. -/
theorem test_rsb_overflow : gives (step (start 0xe2710000 [(1, 0x80000000)])) [(0, 0x80000000)] (cpsr := 0x900000d3) = true := by decide

/-- 95 section 2.5. -/
theorem test_rsb_order : gives (step (start 0xe2610000 [(1, 5)])) [(0, 0xfffffffb)] = true := by decide

/-- 95 item 11b. -/
theorem test_add_overflow : gives (step (start 0xe0910002 [(1, 0x7fffffff), (2, 1)])) [(0, 0x80000000)] (cpsr := 0x900000d3) = true := by decide

/-- 95 section 2.5: register 15 reads with its bias. -/
theorem test_add_pc : gives (step (start 0xe28f0004 [])) [(0, 0x100c)] = true := by decide

/-- 95 section 2.5. -/
theorem test_adc_carry_in_overflow : gives (step (start 0xe0b10002 [(1, 0x7fffffff)] (cpsr := 0x200000d3))) [(0, 0x80000000)] (cpsr := 0x900000d3) = true := by decide

/-- 95 section 2.5. -/
theorem test_adc_carry_out : gives (step (start 0xe0b10002 [(1, 0xffffffff), (2, 0xffffffff)] (cpsr := 0x200000d3))) [(0, 0xffffffff)] (cpsr := 0xa00000d3) = true := by decide

/-- 95 section 2.5. -/
theorem test_sbc_borrow_in_overflow : gives (step (start 0xe0d10002 [(1, 0x80000000)])) [(0, 0x7fffffff)] (cpsr := 0x300000d3) = true := by decide

/-- 95 section 2.5. -/
theorem test_sbc_no_carry : gives (step (start 0xe0d10002 [(2, 0xffffffff)])) [(0, 0)] (cpsr := 0x400000d3) = true := by decide

/-- 95 section 2.5. -/
theorem test_rsc_order : gives (step (start 0xe0f10002 [(1, 1), (2, 3)])) [(0, 1)] (cpsr := 0x200000d3) = true := by decide

/-- 95 section 2.5. -/
theorem test_rsc_borrow : gives (step (start 0xe0f10002 [(1, 3), (2, 1)] (cpsr := 0x200000d3))) [(0, 0xfffffffe)] (cpsr := 0x800000d3) = true := by decide

/-- 95 section 2.5. -/
theorem test_tst_keeps_c_v : gives (step (start 0xe3110001 [(1, 2)] (cpsr := 0xf00000d3))) [(0, 0), (1, 2)] (cpsr := 0x700000d3) = true := by decide

/-- 95 section 2.5. -/
theorem test_teq_shift : gives (step (start 0xe1310002 [(1, 0x1234), (2, 0x1234)] (cpsr := 0x300000d3))) [(1, 0x1234)] (cpsr := 0x700000d3) = true := by decide

/-- 95 section 2.5. -/
theorem test_cmp_overflow : gives (step (start 0xe1510002 [(1, 0x80000000), (2, 0x7fffffff)])) [(0, 0)] (cpsr := 0x300000d3) = true := by decide

/-- 95 section 2.5: no restore, no PC write. -/
theorem test_cmp_rd_15 : gives (step (start 0xe351f000 [] (spsr := 0xffffffff))) [(15, 0x1000)] (cpsr := 0x600000d3) (spsr := 0xffffffff) = true := by decide

/-- 95 section 2.5. -/
theorem test_cmn_refused_by_default : faults (step (start 0xe3710001 [])) .unsupportedEncoding = true := by decide

/-- 95 section 2.5. -/
theorem test_cmn_implemented : gives (step (startImpl 0xe3710001 [(1, 0xffffffff)])) [(1, 0xffffffff)] (cpsr := 0x600000d3) = true := by decide

/-- 95 section 2.5. -/
theorem test_orr_shifted_out : gives (step (start 0xe19100a2 [(2, 1)])) [(0, 0)] (cpsr := 0x600000d3) = true := by decide

/-- 95 section 2.5. -/
theorem test_orr_imm : gives (step (start 0xe38100f0 [(1, 0x0f)])) [(0, 0xff)] = true := by decide

/-- 95 section 2.4. -/
theorem test_mov_rrx : gives (step (start 0xe1b00061 [(1, 2)] (cpsr := 0x200000d3))) [(0, 0x80000001)] (cpsr := 0x800000d3) = true := by decide

/-- 95 item 12b. -/
theorem test_mov_restore : gives (step (start 0xe1b0f00e [(14, 0x2000)] (cpsr := 0xf00000d3) (spsr := 0x60000010))) [(15, 0x2000)] (cpsr := 0x60000010) (jumped := true) (spsr := 0x60000010) = true := by decide

/-- 95 section 2.5. -/
theorem test_bic_imm : gives (step (start 0xe3c100ff [(1, 0x12345678)])) [(0, 0x12345600)] = true := by decide

/-- 95 section 2.5. -/
theorem test_mvn_flags : gives (step (start 0xe1f00001 [(1, 0xffffffff)] (cpsr := 0x200000d3))) [(0, 0)] (cpsr := 0x600000d3) = true := by decide

/-- 95 section 2.4. -/
theorem test_shift_lsr_zero_is_32 : gives (step (start 0xe1b00021 [(1, 0x80000000)])) [(0, 0)] (cpsr := 0x600000d3) = true := by decide

/-- 95 section 2.4. -/
theorem test_shift_asr_zero_is_32 : gives (step (start 0xe1b00041 [(1, 0x80000000)])) [(0, 0xffffffff)] (cpsr := 0xa00000d3) = true := by decide

/-- 95 section 2.6. -/
theorem test_msr_imm_flags : gives (step (start 0xe328f20f [])) [(0, 0)] (cpsr := 0xf00000d3) = true := by decide

/-- 95 section 2.6. -/
theorem test_msr_reg_mode : gives (step (start 0xe121f000 [(0, 0x1f)])) [(0, 0x1f)] (cpsr := 0x0000001f) = true := by decide

/-- 95 section 2.6. -/
theorem test_msr_spsr : gives (step (start 0xe16ff000 [(0, 0x1f)])) [(0, 0x1f)] (spsr := 0x1f) = true := by decide

/-- 95 section 2.6. -/
theorem test_mrs_implemented : gives (step (startImpl 0xe14f0000 [] (spsr := 0x12345678))) [(0, 0x12345678)] (spsr := 0x12345678) = true := by decide

/-- U9 of 93. -/
theorem test_mrs_pc_refused : refuses (step (startImpl 0xe10ff000 [])) .mrsPc = true := by decide

/-- 95 section 2.6. -/
theorem test_empty_slot : faults (step (start 0xe3000000 [])) .unsupportedEncoding = true := by decide

/-- 95 section 2.7. -/
theorem test_ldr_rotates : gives (step (start 0xe5912001 [(1, 0x2000)])) [(2, 0x44112233), (1, 0x2000)] = true := by decide

/-- 95 section 2.7. -/
theorem test_ldr_post_index : gives (step (start 0xe4112008 [(1, 0x2008)])) [(2, 0x99aabbcc), (1, 0x2000)] = true := by decide

/-- 95 section 2.7. -/
theorem test_ldr_rd_rn_refused : refuses (step (start 0xe4911004 [(1, 0x2000)])) .writebackRdEqRn = true := by decide

/-- 95 section 2.7. -/
theorem test_str_pre_index : (stores (step (start 0xe5212004 [(1, 0x2008), (2, 0xdeadbeef)])) [(0x2004, 0xdeadbeef), (0x2000, 0x11223344), (0x2008, 0x99aabbcc)] && gives (step (start 0xe5212004 [(1, 0x2008), (2, 0xdeadbeef)])) [(1, 0x2004)]) = true := by decide

/-- 95 section 2.7. -/
theorem test_str_pc : stores (step (start 0xe581f000 [(1, 0x2000)])) [(0x2000, 0x1008)] = true := by decide

/-- 95 section 2.7. -/
theorem test_ldrb_implemented : gives (step (startImpl 0xe5d12001 [(1, 0x2000)])) [(2, 0x33)] = true := by decide

/-- 95 section 2.7. -/
theorem test_strb_implemented : stores (step (startImpl 0xe5c12002 [(1, 0x2000), (2, 0x1ff)])) [(0x2000, 0x11ff3344)] = true := by decide

/-- 95 section 2.7. -/
theorem test_ldr_range_miss : faults (step (start 0xe5912000 [(1, 0x20000)])) .addressRangeMiss = true := by decide

/-- 95 section 2.7: whatever the condition. -/
theorem test_register_offset : faults (step (start 0x17912003 [] (cpsr := 0x400000d3))) .notImplemented = true := by decide

/-- 95 section 2.8. -/
theorem test_ldm_decrement_after : gives (step (start 0xe8300006 [(0, 0x2008)])) [(1, 0x55667788), (2, 0x99aabbcc), (0, 0x2000)] = true := by decide

/-- 95 section 2.8: T from bit 0. -/
theorem test_ldm_pc_sets_t : gives (step ({ start 0xe8bd8010 [(13, 0x2008)] with mem := writeBytes (writeBytes (start 0xe8bd8010 []).mem 0x2008 4 0x44) 0x200c 4 0x1235 })) [(4, 0x44), (13, 0x2010), (15, 0x1234)] (cpsr := 0xf3) (jumped := true) = true := by decide

/-- 95 section 2.8. -/
theorem test_ldm_base_in_list : refuses (step (start 0xe8b00003 [(0, 0x2000)])) .baseInList = true := by decide

/-- 95 section 2.8. -/
theorem test_stm_push : (stores (step (start 0xe92d4010 [(13, 0x2010), (4, 0x44), (14, 0x1234)])) [(0x2008, 0x44), (0x200c, 0x1234), (0x2004, 0x55667788)] && gives (step (start 0xe92d4010 [(13, 0x2010), (4, 0x44), (14, 0x1234)])) [(13, 0x2008)]) = true := by decide

/-- 95 section 2.8. -/
theorem test_stm_increment_before : stores (step (start 0xe9800006 [(0, 0x2000), (1, 0xa), (2, 0xb)])) [(0x2000, 0x11223344), (0x2004, 0xa), (0x2008, 0xb)] = true := by decide

/-- 95 section 2.8. -/
theorem test_lsm_s_bit : faults (step (start 0xe8d00006 [])) .unsupportedEncoding = true := by decide

/-- 95 section 2.9. -/
theorem test_b_backward : gives (step (start 0xea800000 [(14, 0xeeeeeeee)])) [(15, 0xfe001008), (14, 0xeeeeeeee)] (jumped := true) = true := by decide

/-- 95 section 2.9. -/
theorem test_bne_not_taken : gives (step (start 0x1afffffc [] (cpsr := 0x400000d3))) [(15, 0x1000)] (cpsr := 0x400000d3) = true := by decide

/-- 95 section 2.9. -/
theorem test_bl_links : gives (step (start 0xeb000040 [])) [(14, 0x1004), (15, 0x1108)] (jumped := true) = true := by decide

/-- 95 section 2.9. -/
theorem test_blx_h_bit : gives (step (start 0xfbffffff [])) [(14, 0x1004), (15, 0x1006)] (cpsr := 0xf3) (jumped := true) = true := by decide

/-- 95 section 2.10. -/
theorem test_mrc_value : gives (step (startCp 0xee110f10 [])) [(0, 0x78)] = true := by decide

/-- 95 section 2.10. -/
theorem test_mrc_r15_flags : gives (step (startCp 0xee10ff10 [])) [(15, 0x1000)] (cpsr := 0x400000d3) = true := by decide

/-- 95 section 2.10. -/
theorem test_mrc_unregistered : gives (step (startCp 0xee120f10 [(0, 0x55)])) [(0, 0x55), (15, 4), (14, 0)] (jumped := true) = true := by decide

/-- 95 section 2.10. -/
theorem test_mcr_value : cp15 (step (startCp 0xee01ff10 [])) 0x1000 0x1008 = true := by decide

/-- 95 section 2.10. -/
theorem test_cdp_identity : (cp15 (step (startCp 0xee000f00 [])) 0 0x41069265 && cp15 (step (startCp 0xee000f00 [])) 0x1000 0x78) = true := by decide

/-- 95 section 2.10. -/
theorem test_cdp_unregistered : gives (step (startCp 0xee100f00 [])) [(15, 4)] (jumped := true) = true := by decide

/-- 95 section 2.10. -/
theorem test_ldc : faults (step (start 0xed900000 [])) .unsupportedEncoding = true := by decide

/-- 95 section 2.10. -/
theorem test_swi : faults (step (start 0xef000000 [])) .unsupportedEncoding = true := by decide

/-- 95 section 2.11. -/
theorem test_swi_continues : gives (step (startGoOn 0xef000000)) [(15, 0x1000)] = true := by decide

/-- 95 section 2.11: whatever the condition. -/
theorem test_register_shift : faults (step (start 0x10810312 [] (cpsr := 0x400000d3))) .notImplemented = true := by decide

/-- 95 section 2.11. -/
theorem test_multiply_space : faults (step (start 0xe0000291 [])) .notImplemented = true := by decide

/-- 95 section 2.11. -/
theorem test_nv_undefined : gives (step (start 0xf8900006 [])) [(15, 4)] (jumped := true) = true := by decide

/-- 95 section 2.11: the aligned word, the low bits kept. -/
theorem test_fetch_low_bits : gives (step ({ start 0xe1a0000f [] with regs := (start 0xe1a0000f []).regs.set 15 0x1002 })) [(0, 0x100a), (15, 0x1002)] = true := by decide

/-- 95 section 2.11. -/
theorem test_thumb_state : faults (step (start 0xe1a0000f [] (cpsr := 0xf3))) .thumbState = true := by decide

/-- 95 section 2.11: a halt request stops the core and changes nothing else. -/
theorem test_halt :
    (match step { start 0xe3a00001 [] with haltReq := true } with
      | .next t => decide (t = { start 0xe3a00001 [] with haltReq := true, stop := .halted })
      | _ => false) = true := by decide

/-- R340: the first instruction after reset, placed where the first step fetches. -/
theorem test_reset_first_step : gives (step (State.reset.withFetchWord 32 0xe3a00001)) [(0, 1), (15, 0)] = true := by decide

/-! ## The router and the host surface (95 sections 2.1 and 2.13) -/

/-- 95 section 2.1. -/
theorem test_read_masked :
    readMasked 0x12 0x1234567802468ace 64 16 = .ok 0x123456780246 ∧ readMasked 0x13 0x02468ace 32 8 = .ok 0x02 ∧
    readMasked 0x10 0 64 24 = .error .invalidWidth := by decide

/-- 95 section 2.1. -/
theorem test_write_masked :
    writeMasked 0x17 0x1234567802468ace 0x1ab 64 8 = .ok 0xab34567802468ace ∧
    writeMasked 0x12 0x02468ace 0xbeef 32 16 = .ok 0xbeef8ace := by decide

/-- 95 section 2.13: a 64-bit write to a 32-bit RAM. -/
theorem test_write64_too_wide :
    (match hostWrite64 0x2000 0x1122334455667788 (start 0 []) with
      | (.error .widthExceedsDevice, t) => t.stop == .stoppedFault .widthExceedsDevice
      | _ => false) = true := by decide

/-- R65, R304: a host write and a host read that no region covers stop the core. -/
theorem test_host_miss_stops :
    (hostWrite8 0x10000 0xbb (start 0 [])).2.stop = .stoppedFault .addressRangeMiss ∧
    (hostRead 0x10000 32 (start 0 [])).2.stop = .stoppedFault .addressRangeMiss := by decide

/-- 95 section 2.13. -/
theorem test_write8 :
    (match hostWrite8 0x2001 0xbb (start 0 []) with
      | (.ok _, t) => wordAt t 0x2000 == 0x1122bb44 && t.stop == .running
      | _ => false) = true := by decide

/-- 95 section 2.13: APSR. -/
theorem test_apsr : (hostSetApsr 0xffffffff State.reset).cpsr = 0xf80f00d3 := by decide

/-- 95 section 2.13: an index outside 0 to 15, and a value wider than 32 bits. -/
theorem test_set_reg :
    hostGetReg 16 State.reset = none ∧ (hostSetReg 3 0x100000001 State.reset).map (fun s => s.regs.get 3) = some 1 ∧
    ((hostSetReg 15 0x8000 State.reset).bind (hostGetReg 15 ·)) = some 0x8008 := by decide

/-- R34: the mode codes. -/
theorem test_modes : [0x10, 0x11, 0x12, 0x13, 0x17, 0x1b, 0x1f, 0x00].map modeOfCode =
    [some .usr, some .fiq, some .irq, some .svc, some .abt, some .und, some .sys, none] := by decide

/-! ## Witnesses: states and operands that meet the hypotheses of each statement -/

/-- The start state over one device that is not RAM. -/
def startDevice (width : Nat) : State :=
  { start 0 [(1, 0x2000)] with
    cfg := { defaultConfig with addressMap := [{ base := 0, limit := 0xffff, width := width, device := .peripheral 3 }] } }

/-- The start state under another CDP_EFFECT. -/
def startCdp : State :=
  let s := startCp 0 []
  { s with cfg := { s.cfg with cdp := .other } }

/-- The start state under another MRC_R15_FLAGS. -/
def startMerge : State :=
  let s := startCp 0 []
  { s with cfg := { s.cfg with mrcFlags := .merge } }

/-- The start state under the model's parameter of log 11, by the rules. -/
def startByRules : State :=
  let s := startImpl 0 []
  { s with cfg := { s.cfg with pcOperands := .byRules } }

theorem witness_EncodeKeepsLookedAtBits :
    firstRow 0xe0810002 = some ⟨18, 0x00800000, 0x0fe00010, 0xffffffff⟩ ∧
    firstRow 0xffffffff = some ⟨2, 0xf0000000, 0xf0000000, 0xf0000000⟩ := by decide

theorem witness_BytesHoldTheWordLittleEndian : ([1, 2, 3] : List Byte).length < 4 ∧ 0 < 8 ∧ 7 < 8 := by decide

theorem witness_RegisterReadHasPcBias : (14 : Reg) ≠ Reg.pc ∧ (0 : Reg) ≠ Reg.pc := by decide

theorem witness_NextPcAdvancesUnlessJumped : State.reset.jumped = true ∧ (nextPC State.reset).jumped = false := by decide

theorem witness_ReadMaskedSelectsTheField :
    legalWidth 64 = true ∧ legalWidth 8 = true ∧ 8 ≤ 64 ∧ 64 ≤ 64 ∧ legalWidth 0 = false ∧ legalWidth 24 = false := by
  decide

theorem witness_WriteMaskedLaws :
    legalWidth 8 = true ∧ 8 ≤ 8 ∧ legalWidth 16 = true ∧ legalWidth 64 = true ∧ 16 ≤ 64 ∧ legalWidth 0 = false := by
  decide

/-- The three clauses: a table, an address no region covers (the first beyond the limit), a request too wide at the last
address covered. -/
theorem witness_LookupFindsTheCoveringRegion :
    AddressMap.wf (start 0 []).cfg.addressMap = true ∧
    (∀ r ∈ (start 0 []).cfg.addressMap,
      ¬(r.base.toNat ≤ (0x10000 : Addr).toNat ∧ (0x10000 : Addr).toNat ≤ r.limit.toNat)) ∧
    lookup (start 0 []).cfg.addressMap 0xffff = some (ram 0 0xffff 32) ∧ (ram 0 0xffff 32).width < 64 := by decide

theorem witness_RamReadIsFlat :
    legalWidth 32 = true ∧ legalWidth 8 = true ∧ lookup (start 0 []).cfg.addressMap 0xffff = some (ram 0 0xffff 32) ∧
    (ram 0 0xffff 32).device = .ram ∧ (ram 0 0xffff 32).wf = true ∧ 32 ≤ (ram 0 0xffff 32).width := by decide

theorem witness_RamWriteIsFlat :
    Memory.wf (start 0 []).mem = true ∧ legalWidth 16 = true ∧
    lookup (start 0 []).cfg.addressMap 0 = some (ram 0 0xffff 32) ∧ (ram 0 0xffff 32).device = .ram ∧
    (ram 0 0xffff 32).wf = true ∧ 16 ≤ (ram 0 0xffff 32).width := by decide

theorem witness_DeviceSeesReadThenWrite :
    lookup (startDevice 32).cfg.addressMap 0x2001 =
      some { base := 0, limit := 0xffff, width := 32, device := .peripheral 3 } ∧
    Region.wf { base := 0, limit := 0xffff, width := 32, device := .peripheral 3 } = true ∧
    legalWidth 32 = true ∧ legalWidth 8 = true ∧ 8 < 32 ∧ 32 ≤ 32 := by decide

theorem witness_ConditionsReadOnlyTheFlags :
    (∀ k, 28 ≤ k → (0x400000d3 : Word).getLsbD k = (0x40000010 : Word).getLsbD k) ∧
    Cond.code .gt % 2 = 0 ∧ Cond.code .le = Cond.code .gt + 1 ∧ Cond.code .eq % 2 = 0 ∧ Cond.code .ne = Cond.code .eq + 1 := by
  refine ⟨fun k hk => ?_, by decide⟩
  by_cases h : k < 32
  · rcases (by omega : k = 28 ∨ k = 29 ∨ k = 30 ∨ k = 31) with rfl | rfl | rfl | rfl <;> decide
  · simp [BitVec.getLsbD_of_ge _ k (by omega : 32 ≤ k)]

theorem witness_ImmediateOperandRotates :
    ({ rot := 0, imm8 := 0xff } : ImmOperand).rot = 0 ∧ ({ rot := 15, imm8 := 0xff } : ImmOperand).rot ≠ 0 := by decide

theorem witness_ShiftOperandForms :
    (0 : BitVec 5) = 0 ∧ (1 : BitVec 5) ≠ 0 ∧ (31 : BitVec 5) ≠ 0 ∧ State.reset.cfg.shiftZeroIs32 = true ∧
    ({ State.reset with cfg := { defaultConfig with shiftZeroIs32 := false } } : State).cfg.shiftZeroIs32 = false := by decide

/-- For every statement whose one hypothesis is that the condition passed: AL, and a condition that reads a flag. -/
theorem witness_condition_passed :
    condPassed .al (start 0 []).cpsr = true ∧ condPassed .eq (start 0 [] (cpsr := 0x400000d3)).cpsr = true := by decide

theorem witness_AndOrrResults : condPassed .al (start 0xe21104ff [(1, 0x80000001)]).cpsr = true := by decide
theorem witness_BicMvnResults : condPassed .al (start 0xe3c100ff [(1, 0x12345678)]).cpsr = true := by decide
theorem witness_MovResults : condPassed .al (start 0xe1b0f00e [(14, 0x2000)] (spsr := 0x60000010)).cpsr = true := by decide
theorem witness_TstTeqResults : condPassed .mi (start 0x43110001 [(1, 2)] (cpsr := 0xf00000d3)).cpsr = true := by decide
theorem witness_AddResults : condPassed .al (start 0xe0910002 [(1, 0x7fffffff), (2, 1)]).cpsr = true := by decide
theorem witness_ReverseAndCarryResults :
    condPassed .al (start 0xe0b10002 [(1, 0x7fffffff)] (cpsr := 0x200000d3)).cpsr = true := by decide
theorem witness_SubResults : condPassed .al (start 0xe0510002 [(1, 0x80000000), (2, 1)]).cpsr = true := by decide
theorem witness_CmpResults : condPassed .al (start 0xe351f000 []).cpsr = true := by decide
theorem witness_MsrWritesTheSelectedBytes : condPassed .al (start 0xe121f000 [(0, 0x1f)]).cpsr = true := by decide
theorem witness_BranchesTargetAndLink :
    condPassed .ne (start 0x1afffffc []).cpsr = true ∧ condPassed .eq (start 0x0afffffc []).cpsr = false := by decide

theorem witness_EorCmnResultsWhereImplemented :
    condPassed .al (startImpl 0 []).cpsr = true ∧ (startImpl 0 []).cfg.unlisted = .implement := by decide

/-- Each clause: Rd other than 15; Rd = 15 by the rules; Rd = 15 refused. -/
theorem witness_MrsReadsTheStatusRegister :
    condPassed .al (startImpl 0 []).cpsr = true ∧ (startImpl 0 []).cfg.unlisted = .implement ∧
    ¬((14 : Reg) = Reg.pc ∧ (startImpl 0 []).cfg.pcOperands = .refuse) ∧
    (startByRules.cfg.unlisted = .implement ∧ ¬(Reg.pc = Reg.pc ∧ startByRules.cfg.pcOperands = .refuse)) ∧
    (startImpl 0 []).cfg.pcOperands = .refuse := by decide

/-- `LDR r2, [r1, #4]!` of 95 section 2.7. -/
def ldrPre : LsOperand := { p := true, u := true, w := true, rn := 1, rd := 2, imm12 := 4 }

theorem witness_SingleTransferAddress : ldrPre.p = true ∧ ({ ldrPre with p := false } : LsOperand).p = false := by decide

theorem ramWordAt_start (a : Word) (regs : List (Reg × Word)) (h : a.toNat ≤ 0xffff) : RamWordAt a (start 0 regs) := by
  refine ⟨ram 0 0xffff 32, ?_, rfl, by decide, by decide⟩
  have hz : (a.setWidth 64).toNat = a.toNat := by simp; omega
  show lookup [ram 0 0xffff 32] _ = _
  simp [lookup, regionCovers, ram, List.find?, hz, h]

/-- Over RAM, over a device whose answer is free, and where the read fails (the word beyond the region). -/
theorem witness_LdrLoadsTheRotatedWord :
    condPassed .al (start 0 [(1, 0x2000)]).cpsr = true ∧ SingleDefined ldrPre (start 0 [(1, 0x2000)]) ∧
    RamWordAt (address ldrPre (start 0 [(1, 0x2000)])).addr (start 0 [(1, 0x2000)]) ∧
    SingleDefined ldrPre (startDevice 32) ∧
    (∃ data u, readWord (address ldrPre (startDevice 32)).addr (startDevice 32) = .ok (data, u)) ∧
    SingleDefined ldrPre (start 0 [(1, 0xfffc)]) ∧
    ∃ e, readWord (address ldrPre (start 0 [(1, 0xfffc)])).addr (start 0 [(1, 0xfffc)]) = .error e :=
  ⟨by decide, by unfold SingleDefined; decide, ramWordAt_start _ _ (by decide), by unfold SingleDefined; decide,
    ⟨_, _, rfl⟩, by unfold SingleDefined; decide, ⟨_, rfl⟩⟩

/-- LDR into register 15, over RAM. -/
theorem witness_LdrLoadsTheRotatedWord_pc :
    ({ ldrPre with rd := 15 } : LsOperand).rd = Reg.pc ∧ SingleDefined { ldrPre with rd := 15 } (start 0 [(1, 0x2000)]) ∧
    RamWordAt (address { ldrPre with rd := 15 } (start 0 [(1, 0x2000)])).addr (start 0 [(1, 0x2000)]) :=
  ⟨rfl, by unfold SingleDefined; decide, ramWordAt_start _ _ (by decide)⟩

/-- Register 15 as a written-back base, by the rules (log 11): of LDR, LDRB, STR and STRB. -/
theorem witness_single_pc_base :
    (WritesBack { ldrPre with rn := 15 } ∧ SingleDefined { ldrPre with rn := 15 } startByRules) ∧
    startByRules.cfg.unlisted = .implement ∧
    RamByteAt (address { ldrPre with rn := 15 } startByRules).addr startByRules ∧
    RamWordAt (address { ldrPre with rn := 15 } startByRules).addr startByRules :=
  ⟨⟨by decide, by unfold SingleDefined; decide⟩, by decide, ⟨ram 0 0xffff 32, by decide, rfl, by decide⟩,
    ⟨ram 0 0xffff 32, by decide, rfl, by decide, by decide⟩⟩

/-- LDRB into register 15 (log 12). -/
theorem witness_LdrbLoadsTheByteWhereImplemented_pc :
    ({ ldrPre with rd := 15 } : LsOperand).rd = Reg.pc ∧ SingleDefined { ldrPre with rd := 15 } (startImpl 0 [(1, 0x2000)]) ∧
    RamByteAt (address { ldrPre with rd := 15 } (startImpl 0 [(1, 0x2000)])).addr (startImpl 0 [(1, 0x2000)]) :=
  ⟨rfl, by unfold SingleDefined; decide, ⟨ram 0 0xffff 32, by decide, rfl, by decide⟩⟩

theorem witness_LdrbLoadsTheByteWhereImplemented :
    condPassed .al (startImpl 0 [(1, 0x2000)]).cpsr = true ∧ (startImpl 0 [(1, 0x2000)]).cfg.unlisted = .implement ∧
    SingleDefined ldrPre (startImpl 0 [(1, 0x2000)]) ∧
    RamByteAt (address ldrPre (startImpl 0 [(1, 0x2000)])).addr (startImpl 0 [(1, 0x2000)]) ∧
    (∃ data u, readByteBus (address ldrPre (startDevice 32)).addr (startDevice 32) = .ok (data, u)) ∧
    SingleDefined ldrPre (startImpl 0 [(1, 0xfffc)]) ∧
    ∃ e, readByteBus (address ldrPre (startImpl 0 [(1, 0xfffc)])).addr (startImpl 0 [(1, 0xfffc)]) = .error e :=
  ⟨by decide, by decide, by unfold SingleDefined; decide, ⟨ram 0 0xffff 32, by decide, rfl, by decide⟩, ⟨_, _, rfl⟩,
    by unfold SingleDefined; decide, ⟨_, rfl⟩⟩

theorem witness_StrStoresTheWord :
    condPassed .al (start 0 [(1, 0x2000)]).cpsr = true ∧ SingleDefined ldrPre (start 0 [(1, 0x2000)]) ∧
    Memory.wf (start 0 [(1, 0x2000)]).mem = true ∧
    RamWordAt (address ldrPre (start 0 [(1, 0x2000)])).addr (start 0 [(1, 0x2000)]) ∧
    (∃ u, writeWord (address ldrPre (startDevice 32)).addr 5 (startDevice 32) = .ok u) ∧
    SingleDefined ldrPre (start 0 [(1, 0xfffc)]) ∧
    ∃ e, writeWord (address ldrPre (start 0 [(1, 0xfffc)])).addr 0 (start 0 [(1, 0xfffc)]) = .error e :=
  ⟨by decide, by unfold SingleDefined; decide, by decide, ramWordAt_start _ _ (by decide), ⟨_, rfl⟩,
    by unfold SingleDefined; decide, ⟨_, rfl⟩⟩

theorem witness_StrbStoresTheByteWhereImplemented :
    condPassed .al (startImpl 0 [(1, 0x2000)]).cpsr = true ∧ (startImpl 0 [(1, 0x2000)]).cfg.unlisted = .implement ∧
    SingleDefined ldrPre (startImpl 0 [(1, 0x2000)]) ∧ Memory.wf (startImpl 0 [(1, 0x2000)]).mem = true ∧
    RamByteAt (address ldrPre (startImpl 0 [(1, 0x2000)])).addr (startImpl 0 [(1, 0x2000)]) ∧
    (∃ u, writeByteBus (address ldrPre (startDevice 32)).addr 5 (startDevice 32) = .ok u) ∧
    SingleDefined ldrPre (startImpl 0 [(1, 0xfffc)]) ∧
    ∃ e, writeByteBus (address ldrPre (startImpl 0 [(1, 0xfffc)])).addr 0 (startImpl 0 [(1, 0xfffc)]) = .error e :=
  ⟨by decide, by decide, by unfold SingleDefined; decide, by decide, ⟨ram 0 0xffff 32, by decide, rfl, by decide⟩,
    ⟨_, rfl⟩, by unfold SingleDefined; decide, ⟨_, rfl⟩⟩

/-- Each clause: write-back with Rd = Rn; register 15 as base; base in the list; register 15 as base of a multiple. -/
theorem witness_RefusedCombinations :
    condPassed .al (start 0 []).cpsr = true ∧ (WritesBack ldrPre ∧ ({ ldrPre with rd := 1 } : LsOperand).rd = ldrPre.rn) ∧
    (WritesBack { ldrPre with rn := 15 } ∧ ldrPre.rd ≠ Reg.pc ∧ (start 0 []).cfg.pcOperands = .refuse) ∧
    (startImpl 0 []).cfg.unlisted = .implement ∧
    (({ p := true, u := true, w := true, rn := 15, list := 0x8001 } : LsmOperand).w = true ∧
      (0x8001 : BitVec 16).getLsbD 15 = true) ∧
    ¬(false = true ∧ (0x8001 : BitVec 16).getLsbD 15 = true) := by decide

/-- `LDMIA r0!, {r1, r2}`. -/
def ldmTwo : LsmOperand := { p := false, u := true, w := true, rn := 0, list := 0x0006 }

theorem witness_MultipleTransferAddresses :
    (ldmTwo.p = false ∧ ldmTwo.u = true) ∧ ({ ldmTwo with p := true } : LsmOperand).p = true ∧
    ({ ldmTwo with u := false } : LsmOperand).u = false := by decide

theorem ramWords_two (k : Nat) (hk : k < (regList ldmTwo.list).length) :
    RamWordAt (transferAddress ldmTwo (start 0 [(0, 0x2000)]) k) (start 0 [(0, 0x2000)]) := by
  have h2 : (regList ldmTwo.list).length = 2 := by decide
  apply ramWordAt_start
  rcases (by omega : k = 0 ∨ k = 1) with rfl | rfl <;> decide

/-- Over RAM, over a device whose answers are free, and where a read fails (the last word of the region, then beyond). -/
theorem witness_LdmLoadsTheList :
    condPassed .al (start 0 [(0, 0x2000)]).cpsr = true ∧ MultipleDefined ldmTwo (start 0 [(0, 0x2000)]) ∧
    (∀ k, k < (regList ldmTwo.list).length →
      RamWordAt (transferAddress ldmTwo (start 0 [(0, 0x2000)]) k) (start 0 [(0, 0x2000)])) ∧
    (∃ vs u, readSeq 2 (startAddress ldmTwo (startDevice 32)) (startDevice 32) = .ok (vs, u)) ∧
    MultipleDefined ldmTwo (start 0 [(0, 0xfffc)]) ∧
    ∃ e, readSeq 2 (startAddress ldmTwo (start 0 [(0, 0xfffc)])) (start 0 [(0, 0xfffc)]) = .error e :=
  ⟨by decide, by unfold MultipleDefined; decide, ramWords_two, ⟨_, _, rfl⟩, by unfold MultipleDefined; decide, ⟨_, rfl⟩⟩

theorem witness_StmStoresTheList :
    condPassed .al (start 0 [(0, 0x2000)]).cpsr = true ∧ MultipleDefined ldmTwo (start 0 [(0, 0x2000)]) ∧
    Memory.wf (start 0 [(0, 0x2000)]).mem = true ∧
    (∀ k, k < (regList ldmTwo.list).length →
      RamWordAt (transferAddress ldmTwo (start 0 [(0, 0x2000)]) k) (start 0 [(0, 0x2000)])) ∧
    (∃ u, writeSeq [1, 2] (startAddress ldmTwo (startDevice 32)) (startDevice 32) = .ok u) ∧
    ∃ e, writeSeq [1, 2] (startAddress ldmTwo (start 0 [(0, 0xfffc)])) (start 0 [(0, 0xfffc)]) = .error e :=
  ⟨by decide, by unfold MultipleDefined; decide, by decide, ramWords_two, ⟨_, rfl⟩, ⟨_, rfl⟩⟩

/-- The empty list (log 12), register 15 in the list, and register 15 as a base by the rules (log 11), of LDM and STM. -/
theorem witness_multiple_edges :
    ((regList 0).length = 0 ∧ MultipleDefined { ldmTwo with list := 0 } (start 0 [])) ∧
    (regList 0x8002)[1]? = some Reg.pc ∧ MultipleDefined { ldmTwo with list := 0x8002 } (start 0 []) ∧
    MultipleDefined { ldmTwo with rn := 15 } startByRules := by
  unfold MultipleDefined; decide

/-- MRC of coprocessor 15, its id from CRn. -/
def cp15Op (crn : BitVec 4) (rd : Reg) : CpOperand :=
  { opcode1 := 0, crn := crn, rd := rd, cp := 15, opcode2 := 0, crm := 0 }

/-- CDP of coprocessor 15, its id from opcode1. -/
def cdp15Op (opcode1 : BitVec 4) : CdpOperand :=
  { opcode1 := opcode1, crn := 0, crd := 0, cp := 15, opcode2 := 0, crm := 0 }

theorem witness_UndefinedExceptionCauses :
    condPassed .al (startCp 0 []).cpsr = true ∧ validCReg 15 (cdpId (cdp15Op 1)) (startCp 0 []) = false ∧
    validCReg 15 (cpId (cp15Op 2 0)) (startCp 0 []) = false ∧ validCReg 14 0 (startCp 0 []) = false := by decide

theorem witness_McrWritesTheRegister :
    condPassed .al (startCp 0 []).cpsr = true ∧ validCReg 15 (cpId (cp15Op 1 15)) (startCp 0 []) = true := by decide

theorem witness_MrcReadsTheRegister :
    condPassed .al (startCp 0 []).cpsr = true ∧ getCReg 15 (cpId (cp15Op 1 0)) (startCp 0 []) = some 0x78 ∧
    (cp15Op 1 0).rd ≠ Reg.pc ∧ (cp15Op 1 15).rd = Reg.pc ∧ (startCp 0 []).cfg.mrcFlags = .coprocTop ∧
    getCReg 15 (cpId (cp15Op 1 15)) startMerge = some 0x78 ∧ startMerge.cfg.mrcFlags = .merge := by decide

theorem witness_CdpEffect :
    condPassed .al (startCp 0 []).cpsr = true ∧ validCReg 15 (cdpId (cdp15Op 0)) (startCp 0 []) = true ∧
    (startCp 0 []).cfg.cdp = .identity ∧ validCReg 15 (cdpId (cdp15Op 0)) startCdp = true ∧ startCdp.cfg.cdp = .other := by
  decide

theorem witness_FailedConditionChangesNothing :
    (Instr.ldr .eq ldrPre).cond? = some .eq ∧ condPassed .eq (start 0 []).cpsr = false ∧
    isUnimplemented (.ldr .eq ldrPre) = false ∧ unsupportedNow (.ldr .eq ldrPre) (start 0 []) = false := by decide

theorem witness_UnimplementedSpacesAreFatal :
    isUnimplemented (.multiplyExtendedSpace .al) = true ∧
    isUnimplemented (.dpRegisterShift .eq 9 false 15 15 15 .lsl 14) = true ∧
    isUnimplemented (.lsRegisterOffset .al true true false false true 1 2 { amount := 0, kind := .lsl, rm := 3 }) = true := by
  decide

theorem witness_UnsupportedEncodingsFollowThePolicy :
    unsupportedNow (.swi .al 0) (start 0 []) = true ∧ unsupportedNow (.mrs .al false 0) (start 0 []) = true ∧
    (start 0 []).cfg.errorPolicy = .abort ∧ unsupportedNow (.swi .al 0) (startGoOn 0) = true ∧
    (startGoOn 0).cfg.errorPolicy = .carryOn := by decide

theorem witness_StepRunsTheDecodedInstruction :
    Ready (start 0 []) ∧ RamWordAt (start 0 []).nextFetchAddr (start 0 []) ∧
    ∃ w u, readWord (start 0 []).nextFetchAddr (nextPC (start 0 [])) = .ok (w, u) :=
  ⟨⟨rfl, rfl, .inl rfl⟩, ramWordAt_start _ _ (by decide), ⟨_, _, rfl⟩⟩

/-- Each clause: not running; a halt request; T set; a fetch beyond the region. -/
theorem witness_StepStopsInTheGivenOrder :
    ({ start 0 [] with stop := .halted } : State).stop ≠ .running ∧
    ((start 0 []).stop = .running ∧ ({ start 0 [] with haltReq := true } : State).haltReq = true) ∧
    ((start 0 []).haltReq = false ∧ flagT (start 0 [] (cpsr := 0xf3)).cpsr = true ∧ (start 0 []).cfg.thumbPolicy = .refuse) ∧
    Ready (start 0 [(15, 0x10000)]) ∧
    ∃ e, readWord (start 0 [(15, 0x10000)]).nextFetchAddr (nextPC (start 0 [(15, 0x10000)])) = .error e :=
  ⟨by decide, by decide, by decide, ⟨rfl, rfl, .inl rfl⟩, ⟨_, rfl⟩⟩

/-- MSR CPSR_cf, #0x1f changes CPSR and its mode; MSR SPSR changes SPSR. -/
theorem witness_OnlyListedInstructionsWriteStatusRegisters :
    (∃ t, exec (.msrImm .al false 9 { rot := 0, imm8 := 0x1f }) (start 0 []) = .next t ∧
      t.cpsr ≠ (start 0 []).cpsr ∧ fieldM t.cpsr ≠ fieldM (start 0 []).cpsr) ∧
    ∃ t, exec (.msrImm .al true 9 { rot := 0, imm8 := 0x1f }) (start 0 []) = .next t ∧ t.spsr ≠ (start 0 []).spsr :=
  ⟨⟨_, rfl, by decide, by decide⟩, ⟨_, rfl, by decide⟩⟩

/-- A branch out of a state with jumped clear, and one out of a state with jumped set. -/
theorem witness_OnlyListedInstructionsJump :
    (∃ t, exec (.b .al 0) (nextPC (start 0 [])) = .next t ∧ (nextPC (start 0 [])).jumped = false ∧ t.jumped = true ∧
      t.regs.get Reg.pc ≠ (nextPC (start 0 [])).regs.get Reg.pc) ∧
    ∃ t, exec (.b .al 0) (start 0 []) = .next t ∧ (start 0 []).jumped = true ∧
      t.regs.get Reg.pc ≠ (start 0 []).regs.get Reg.pc :=
  ⟨⟨_, rfl, by decide, by decide, by decide⟩, ⟨_, rfl, by decide, by decide⟩⟩

/-- A store that changes a byte, and an MCR that changes a coprocessor register. -/
theorem witness_OnlyStoresAndCoprocessorWrites :
    (∃ t, exec (.str .al ldrPre) (start 0 [(1, 0x2000)]) = .next t ∧ t.byteAt 0x2004 ≠ (start 0 [(1, 0x2000)]).byteAt 0x2004) ∧
    ∃ t, exec (.mcr .al (cp15Op 1 0)) (startCp 0 []) = .next t ∧ t.coproc ≠ (startCp 0 []).coproc :=
  ⟨⟨_, rfl, by decide⟩, ⟨_, rfl, by decide⟩⟩

theorem witness_StepKeepsConfigurationAndIds : ∃ t, step (start 0xe3a00001 []) = .next t :=
  ⟨_, rfl⟩

theorem witness_StepKeepsTheInvariant :
    WfState (startCp 0xe3a00001 []) ∧ ∃ t, step (startCp 0xe3a00001 []) = .next t :=
  ⟨by unfold WfState; decide, ⟨_, rfl⟩⟩

/-- User mode against supervisor mode, the flags alike. -/
theorem witness_ModeHasNoEffectOnExecution :
    (∀ c rd, (Instr.b .al 0) ≠ .mrs c false rd) ∧
    ∀ k, 28 ≤ k → (0x00000010 : Word).getLsbD k = State.reset.cpsr.getLsbD k := by
  refine ⟨fun _ _ => by simp, fun k hk => ?_⟩
  by_cases h : k < 32
  · rcases (by omega : k = 28 ∨ k = 29 ∨ k = 30 ∨ k = 31) with rfl | rfl | rfl | rfl <;> decide
  · simp [BitVec.getLsbD_of_ge _ k (by omega : 32 ≤ k)]

/-- Each clause: a step that faults, one that is refused, one that answers a next state, accesses that fail (just beyond the
region) and accesses that succeed (its last byte). -/
theorem witness_FatalErrorsStopTheCore :
    step (start 0xef000000 []) = .fault .unsupportedEncoding ∧ step (start 0xe5b11004 []) = .refused .writebackRdEqRn ∧
    (∃ t, step (start 0xe3a00001 []) = .next t) ∧
    (∃ e, busRead 0x10000 8 (start 0 []) = .error e) ∧ (∃ x t, busRead 0xffff 8 (start 0 []) = .ok (x, t)) ∧
    (∃ e, busWrite 0x10000 8 1 (start 0 []) = .error e) ∧ ∃ t, busWrite 0xffff 8 1 (start 0 []) = .ok t :=
  ⟨rfl, rfl, ⟨_, rfl⟩, ⟨_, rfl⟩, ⟨_, _, rfl⟩, ⟨_, rfl⟩, ⟨_, rfl⟩⟩

end Sys2Proof.Tests
end

section
/-! The masked view of CPSR: what a merge under a mask reads at each bit, and the bits of the APSR mask (R38). -/
namespace Sys2Proof.Machine

/-- A merge takes each bit from the written value where the mask has it, and from the old word elsewhere (R38, R187). -/
theorem mergeMasked_getLsbD (w v mask : Word) {k : Nat} (hk : k < 32) :
    (mergeMasked w v mask).getLsbD k = if mask.getLsbD k then v.getLsbD k else w.getLsbD k := by
  simp only [mergeMasked, BitVec.getLsbD_or, BitVec.getLsbD_and, BitVec.getLsbD_not, hk]
  cases mask.getLsbD k <;> simp

/-- The mask `0xf80f0000` holds N, Z, C, V, Q (31 to 27) and GE (19 to 16). -/
theorem apsrMask_getLsbD {k : Nat} (hk : k < 32) :
    apsrMask.getLsbD k = decide (27 ≤ k ∨ (16 ≤ k ∧ k ≤ 19)) := by
  have allBits : ∀ i < 32, apsrMask.getLsbD i = decide (27 ≤ i ∨ (16 ≤ i ∧ i ≤ 19)) := by decide
  exact allBits k hk

/-- Reading APSR masks CPSR bit by bit. -/
theorem hostGetApsr_getLsbD (s : State) (k : Nat) :
    (hostGetApsr s).getLsbD k = if apsrMask.getLsbD k then s.cpsr.getLsbD k else false := by
  simp only [hostGetApsr, BitVec.getLsbD_and]
  cases apsrMask.getLsbD k <;> simp

/-- Writing APSR merges the value into CPSR under the mask. -/
theorem hostSetApsr_cpsr (v : Word) (s : State) : (hostSetApsr v s).cpsr = mergeMasked s.cpsr v apsrMask := rfl

/-- Writing APSR leaves every field but CPSR as it was. -/
theorem hostSetApsr_frame (v : Word) (s : State) :
    hostSetApsr v s = { s with cpsr := (hostSetApsr v s).cpsr } := rfl

/-- Settles O12: both the view and the write follow the mask's bits; the write touches no other field. -/
theorem apsrIsTheMaskedView : Obligations.ApsrIsTheMaskedView := by
  unfold Obligations.ApsrIsTheMaskedView
  intro s v k hk
  have hmask := apsrMask_getLsbD hk
  refine ⟨?view, ?write, hostSetApsr_frame v s⟩
  case view =>
    simp only [hostGetApsr_getLsbD, hmask, decide_eq_true_eq]
  case write =>
    simp only [hostSetApsr_cpsr, mergeMasked_getLsbD _ _ _ hk, hmask, decide_eq_true_eq]

end Sys2Proof.Machine
end

section
/-! The masked access unit bit by bit: when its two functions answer, where the field lies in the bus word, and what a merged
word reads inside and outside the field (R70 to R73). -/
namespace Sys2Proof.Machine

/-- The bus word `w` with the low `d` bits of `n` put at bit `sh`: the word `writeMasked` answers (R72). -/
def mergeField (w n : BitVec 64) (d sh : Nat) : BitVec 64 :=
  w &&& ~~~(dataMask d <<< sh) ||| (n &&& dataMask d) <<< sh

/-! ## When the unit answers -/

theorem readMasked_of_legalWidth (a : Addr) (w : BitVec 64) {b d : Nat} (hb : legalWidth b = true)
    (hd : legalWidth d = true) : readMasked a w b d = .ok (w >>> shiftFor a b d) := by
  simp [readMasked, hb, hd]

theorem writeMasked_of_legalWidth (a : Addr) (w n : BitVec 64) {b d : Nat} (hb : legalWidth b = true)
    (hd : legalWidth d = true) :
    writeMasked a w n b d = .ok (mergeField w n d (shiftFor a b d)) := by
  simp [writeMasked, mergeField, hb, hd]

theorem readMasked_invalidWidth (a : Addr) (w : BitVec 64) {b d : Nat}
    (h : legalWidth b = false ∨ legalWidth d = false) : readMasked a w b d = .error .invalidWidth := by
  simp [readMasked, Bool.and_eq_false_iff.2 h]

theorem writeMasked_invalidWidth (a : Addr) (w n : BitVec 64) {b d : Nat}
    (h : legalWidth b = false ∨ legalWidth d = false) : writeMasked a w n b d = .error .invalidWidth := by
  simp [writeMasked, Bool.and_eq_false_iff.2 h]

/-! ## Where the field lies -/

/-- The whole field lies inside the bus word: a request no wider than the bus never straddles its end (R70). -/
theorem shiftFor_add_le (a : Addr) {b d : Nat} (hb : legalWidth b = true) (hd : legalWidth d = true) (hdb : d ≤ b) :
    shiftFor a b d + d ≤ b := by
  rw [shiftFor_eq a hb hd]
  obtain ⟨kb, -, rfl⟩ := legalWidth_cases hb
  obtain ⟨kd, -, rfl⟩ := legalWidth_cases hd
  rw [show 8 * 2 ^ kb / 8 = 2 ^ kb by omega, show 8 * 2 ^ kd / 8 = 2 ^ kd by omega]
  have hpow : 2 ^ kd ≤ 2 ^ kb := by omega
  have hdvd : 2 ^ kd ∣ 2 ^ kb := Nat.pow_dvd_pow 2 ((Nat.pow_le_pow_iff_right Nat.one_lt_two).1 hpow)
  have hslot : a.toNat % 2 ^ kb / 2 ^ kd < 2 ^ kb / 2 ^ kd :=
    Nat.div_lt_div_of_lt_of_dvd hdvd (Nat.mod_lt _ (Nat.two_pow_pos kb))
  have hfit : (a.toNat % 2 ^ kb / 2 ^ kd + 1) * 2 ^ kd ≤ 2 ^ kb :=
    (Nat.mul_le_mul_right _ hslot).trans (Nat.div_mul_le_self _ _)
  rw [Nat.add_mul] at hfit
  omega

theorem legalWidth_le {n : Nat} (h : legalWidth n = true) : n ≤ 64 := by
  obtain ⟨k, hk, rfl⟩ := legalWidth_cases h
  exact Nat.mul_le_mul_left 8 (Nat.pow_le_pow_right (by omega) hk)

theorem getLsbD_dataMask_shiftLeft (d sh i : Nat) :
    (dataMask d <<< sh).getLsbD i = decide (i < 64 ∧ sh ≤ i ∧ i < sh + d) := by
  rw [Bool.eq_iff_iff]
  simp only [BitVec.getLsbD_shiftLeft, getLsbD_dataMask, Bool.and_eq_true, Bool.not_eq_true', decide_eq_true_eq,
    decide_eq_false_iff_not]
  omega

/-! ## A word with a field merged in -/

/-- Inside the field a merged word reads the new data. -/
theorem getLsbD_mergeField_inside (w n : BitVec 64) {d sh k : Nat} (hk : k < d) (hfit : sh + d ≤ 64) :
    (mergeField w n d sh).getLsbD (sh + k) = n.getLsbD k := by
  have hin : sh + k < 64 ∧ sh ≤ sh + k ∧ sh + k < sh + d := by omega
  have hk64 : k < 64 := by omega
  rw [mergeField, BitVec.getLsbD_or, BitVec.getLsbD_and, BitVec.getLsbD_not, getLsbD_dataMask_shiftLeft,
    BitVec.getLsbD_shiftLeft, Nat.add_sub_cancel_left, BitVec.getLsbD_and, getLsbD_dataMask]
  simp [hin, hk, hk64]

/-- Reading the field back gives the low bits that were written (R72, the round trip). -/
theorem mergeField_shiftRight_and_dataMask (w n : BitVec 64) {d sh : Nat} (hfit : sh + d ≤ 64) :
    mergeField w n d sh >>> sh &&& dataMask d = n &&& dataMask d := by
  apply BitVec.eq_of_getLsbD_eq
  intro k hk64
  rw [BitVec.getLsbD_and, BitVec.getLsbD_and, BitVec.getLsbD_ushiftRight, getLsbD_dataMask]
  by_cases hk : k < d
  · rw [getLsbD_mergeField_inside w n hk hfit]
  · simp [hk]

/-- Outside the field a merged word is the old word (R72, every other bit is preserved). -/
theorem mergeField_and_not_fieldMask (w n : BitVec 64) (d sh : Nat) :
    mergeField w n d sh &&& ~~~(dataMask d <<< sh) = w &&& ~~~(dataMask d <<< sh) := by
  rw [mergeField, BitVec.shiftLeft_and_distrib]
  apply BitVec.eq_of_getLsbD_eq
  intro i hi
  simp only [BitVec.getLsbD_and, BitVec.getLsbD_or, BitVec.getLsbD_not, hi]
  cases (dataMask d <<< sh).getLsbD i <;> simp

/-! ## The obligations -/

/-- Settles O13: bit `k` of the shifted word is bit `shiftFor + k` of the bus word, and `shiftFor` is 8 times the rounded
offset. -/
theorem readMaskedSelectsTheField : Obligations.ReadMaskedSelectsTheField := by
  unfold Obligations.ReadMaskedSelectsTheField
  refine ⟨?field, ?formula, ?invalid⟩
  case field =>
    intro a w b d hb hd _ k _
    rw [BitVec.getLsbD_ushiftRight, shiftFor_eq a hb hd, Nat.mul_comm _ 8]
  case formula => exact fun a w b d hb hd => readMasked_of_legalWidth a w hb hd
  case invalid => exact fun a w b d h => readMasked_invalidWidth a w h

/-- Settles O14: the field fits in the bus word, so the merged word holds the new data inside it and the old word outside. -/
theorem writeMaskedLaws : Obligations.WriteMaskedLaws := by
  unfold Obligations.WriteMaskedLaws
  refine ⟨?formula, ?laws, ?invalid⟩
  case formula => exact fun a w n b d hb hd => writeMasked_of_legalWidth a w n hb hd
  case laws =>
    intro a w n b d hb hd hdb
    have hfit : shiftFor a b d + d ≤ 64 := (shiftFor_add_le a hb hd hdb).trans (legalWidth_le hb)
    exact ⟨_, _, writeMasked_of_legalWidth a w n hb hd, readMasked_of_legalWidth a _ hb hd,
      mergeField_shiftRight_and_dataMask w n hfit, mergeField_and_not_fieldMask w n d _⟩
  case invalid => exact fun a w n b d h => writeMasked_invalidWidth a w n h

end Sys2Proof.Machine
end

section
/-! Data processing: the flags of an updated CPSR, what write-back leaves (R158, R159), and the ALU's carry and overflow in exact
arithmetic (R146). -/
namespace Sys2Proof.Machine

/-! ## The flags of an updated CPSR -/

theorem withTop_eq (w : Word) (f : BitVec 4) : withTop w f = (w &&& 0x0fffffff#32) ||| (f.setWidth 32 <<< 28) := rfl

/-- Bits [31:28] come from the new flags, the others from the old word. -/
theorem withTop_getLsbD (w : Word) (f : BitVec 4) {k : Nat} (hk : k < 32) :
    (withTop w f).getLsbD k = if k < 28 then w.getLsbD k else f.getLsbD (k - 28) := by
  have keptBits : ∀ i < 32, (0x0fffffff#32).getLsbD i = decide (i < 28) := by decide
  rw [withTop_eq, BitVec.getLsbD_or, BitVec.getLsbD_and, BitVec.getLsbD_shiftLeft, BitVec.getLsbD_setWidth,
    keptBits k hk]
  by_cases h : k < 28
  · simp [h]
  · simp [h, hk, show k - 28 < 32 by omega]

/-- The order of the four flags (R30). -/
theorem packFlags_getLsbD (n z c v : Bool) :
    (packFlags n z c v).getLsbD 3 = n ∧ (packFlags n z c v).getLsbD 2 = z ∧
      (packFlags n z c v).getLsbD 1 = c ∧ (packFlags n z c v).getLsbD 0 = v := by
  revert n z c v
  decide

/-- A CPSR whose top holds four packed flags reads them back. -/
theorem flags_withTop_packFlags (w : Word) (n z c v : Bool) :
    flagN (withTop w (packFlags n z c v)) = n ∧ flagZ (withTop w (packFlags n z c v)) = z ∧
      flagC (withTop w (packFlags n z c v)) = c ∧ flagV (withTop w (packFlags n z c v)) = v := by
  have top (k : Nat) (hk : k < 4) : (withTop w (packFlags n z c v)).getLsbD (28 + k) = (packFlags n z c v).getLsbD k := by
    rw [withTop_getLsbD w _ (by omega), if_neg (by omega), Nat.add_sub_cancel_left]
  obtain ⟨hn, hz, hc, hv⟩ := packFlags_getLsbD n z c v
  exact ⟨(top 3 (by omega)).trans hn, (top 2 (by omega)).trans hz, (top 1 (by omega)).trans hc,
    (top 0 (by omega)).trans hv⟩

/-! ## What write-back leaves -/

theorem writeBack_jumped (sf : Bool) (rd : Reg) (r : Word) (k : FlagClass) (w : Bool) (s : State) :
    (writeBack sf rd r k w s).jumped = (s.jumped || (w && decide (rd = Reg.pc))) :=
  congrArg State.jumped (writeBack_frame sf rd r k w s)

/-- R159: write-back leaves what `DpPost` says, for a flag class that puts `cOut` and `vOut` into C and V. -/
theorem writeBack_dpPost {sf w : Bool} {rd : Reg} {r : Word} {k : FlagClass} {cOut vOut : Bool} {s : State}
    (hk : setFlags s.cpsr r k = withTop s.cpsr (packFlags (r.getLsbD 31) (r == 0) cOut vOut)) :
    DpPost sf w rd r cOut vOut s (writeBack sf rd r k w s) where
  result hw := by rw [writeBack_get, if_pos ⟨hw, rfl⟩]
  otherRegs i hi := by rw [writeBack_get, if_neg hi]
  jump := writeBack_jumped ..
  flagsKept hs := by rw [writeBack_cpsr, if_pos hs]
  restored hs hw hp := by rw [writeBack_cpsr, if_neg (by simp [hs]), if_pos ⟨hw, hp⟩]
  flagsSet hs hp := by
    obtain ⟨hN, hZ, hC, hV⟩ := flags_withTop_packFlags s.cpsr (r.getLsbD 31) (r == 0) cOut vOut
    rw [writeBack_cpsr, if_neg (by simp [hs]), if_neg hp, hk]
    exact ⟨hN, hZ, hC, hV, fun k hk28 => by rw [withTop_getLsbD _ _ (by omega), if_pos hk28]⟩
  others := by
    rw [OnlyRegsAndCpsr, writeBack_jumped]
    exact writeBack_frame ..

/-! ## An instruction of each class completes (R158) -/

/-- The logical class: C from the shifter, V kept. -/
theorem dpLogical_runs (f : Word → Word → Word) (sh : ShifterOut) {i : Instr} {c : Cond} {sf w : Bool} {rd rn : Reg}
    {s : State} (hc : condPassed c s.cpsr = true) (hi : exec i s = dpLogical c sf w rd f rn sh s) :
    DpRuns i sf w rd (f (s.readReg rn) sh.op2) sh.sco (flagV s.cpsr) s :=
  ⟨_, hi.trans (conditional_passed hc _), writeBack_dpPost rfl⟩

/-- The arithmetic class: result, C and V from the ALU. -/
theorem dpArithmetic_runs (f : Word → Word → Bool → AluOut) (sh : ShifterOut) {i : Instr} {c : Cond} {sf w : Bool}
    {rd rn : Reg} {s : State} {r : Word} {cOut vOut : Bool} (hc : condPassed c s.cpsr = true)
    (hi : exec i s = dpArithmetic c sf w rd f rn sh s)
    (hf : f (s.readReg rn) sh.op2 (flagC s.cpsr) = ⟨r, cOut, vOut⟩) : DpRuns i sf w rd r cOut vOut s := by
  rw [dpArithmetic, hf] at hi
  exact ⟨_, hi.trans (conditional_passed hc _), writeBack_dpPost rfl⟩

/-! ## The ALU in exact arithmetic (R146) -/

/-- The sign rule of R144 holds exactly when the exact sum leaves the signed range. -/
theorem overflowAdd_eq_signedOverflow (a b : Word) : overflowAdd a b (a + b) = signedOverflow (a.toInt + b.toInt) := by
  have rule : overflowAdd a b (a + b) = a.saddOverflow b := by
    rw [BitVec.saddOverflow_eq]
    simp only [BitVec.msb_eq_getLsbD_last]
    rfl
  rw [rule, BitVec.saddOverflow, signedOverflow, ← Bool.decide_or]
  exact decide_eq_decide.2 or_comm

/-- The sign rule of R145 holds exactly when the exact difference leaves the signed range. -/
theorem overflowSub_eq_signedOverflow (a b : Word) : overflowSub a b (a - b) = signedOverflow (a.toInt - b.toInt) := by
  have rule : overflowSub a b (a - b) = a.ssubOverflow b := by
    rw [BitVec.ssubOverflow_eq]
    simp only [BitVec.msb_eq_getLsbD_last, overflowSub]
    cases a.getLsbD 31 <;> cases b.getLsbD 31 <;> simp
  rw [rule, BitVec.ssubOverflow, signedOverflow, ← Bool.decide_or]
  exact decide_eq_decide.2 or_comm

theorem addFlags_eq (a b : Word) :
    addFlags a b = ⟨a + b, decide (2 ^ 32 ≤ a.toNat + b.toNat), signedOverflow (a.toInt + b.toInt)⟩ := by
  rw [addFlags, overflowAdd_eq_signedOverflow, carryFrom]

/-- C is NOT borrow: the minuend is no less than the subtrahend. -/
theorem subFlags_eq (a b : Word) :
    subFlags a b = ⟨a - b, decide (b.toNat ≤ a.toNat), signedOverflow (a.toInt - b.toInt)⟩ := by
  have notBorrow : (!borrowFrom a b) = decide (b.toNat ≤ a.toNat) := by simp [borrowFrom, ← decide_not]
  rw [subFlags, overflowSub_eq_signedOverflow, notBorrow]

/-! ## The obligations -/

/-- Settles O22: AND and ORR are of the logical class. -/
theorem andOrrResults : Obligations.AndOrrResults := by
  unfold Obligations.AndOrrResults
  intro c sf rn rd s hc
  refine ⟨fun op => ⟨?andImm, ?orrImm⟩, fun op => ⟨?andShift, ?orrShift⟩⟩
  case andImm => exact dpLogical_runs aluAnd (immOperand op s) hc rfl
  case orrImm => exact dpLogical_runs aluOrr (immOperand op s) hc rfl
  case andShift => exact dpLogical_runs aluAnd (shiftOperand op s) hc rfl
  case orrShift => exact dpLogical_runs aluOrr (shiftOperand op s) hc rfl

/-- Settles O24: MOV is of the logical class, its function the second operand alone. -/
theorem movResults : Obligations.MovResults := by
  unfold Obligations.MovResults
  intro c sf rn rd s hc
  exact ⟨fun op => dpLogical_runs aluMov (immOperand op s) hc rfl,
    fun op => dpLogical_runs aluMov (shiftOperand op s) hc rfl⟩

/-- Settles O26: ADD is of the arithmetic class; its flags are those of the exact sum. -/
theorem addResults : Obligations.AddResults := by
  unfold Obligations.AddResults
  intro c sf rn rd s hc
  exact ⟨fun op => dpArithmetic_runs aluAdd (immOperand op s) hc rfl (addFlags_eq ..),
    fun op => dpArithmetic_runs aluAdd (shiftOperand op s) hc rfl (addFlags_eq ..)⟩

/-- Settles O27: SUB is of the arithmetic class; its flags are those of the exact difference. -/
theorem subResults : Obligations.SubResults := by
  unfold Obligations.SubResults
  intro c sf rn rd s hc
  exact ⟨fun op => dpArithmetic_runs aluSub (immOperand op s) hc rfl (subFlags_eq ..),
    fun op => dpArithmetic_runs aluSub (shiftOperand op s) hc rfl (subFlags_eq ..)⟩

end Sys2Proof.Machine
end

section
/-! Branches: the offset in exact arithmetic (R116), the T bit (R33), and what a branch writes and leaves (R240 to R242). -/
namespace Sys2Proof.Machine

/-! ## The target in exact arithmetic -/

/-- R116: sign extension keeps the signed value, and two places to the left are a factor 4. -/
theorem branchOffset_eq_ofInt (offset : BitVec 24) : branchOffset offset = BitVec.ofInt 32 (offset.toInt * 4) := by
  have four : BitVec.twoPow 32 2 = BitVec.ofInt 32 4 := by decide
  rw [branchOffset, BitVec.shiftLeft_eq_mul_twoPow, BitVec.signExtend, BitVec.ofInt_mul, four]

/-- The words' sum is the exact sum modulo 2^32. -/
theorem add_branchOffset_add (pc : Word) (offset : BitVec 24) (extra : Int) :
    pc + (branchOffset offset + BitVec.ofInt 32 extra) = BitVec.ofInt 32 (pc.toNat + offset.toInt * 4 + extra) := by
  rw [branchOffset_eq_ofInt, BitVec.ofInt_add, BitVec.ofInt_add, BitVec.ofInt_natCast, BitVec.ofNat_toNat,
    BitVec.setWidth_eq, BitVec.add_assoc]

/-- The target of B and BL. -/
theorem add_branchOffset (pc : Word) (offset : BitVec 24) :
    pc + branchOffset offset = BitVec.ofInt 32 (pc.toNat + offset.toInt * 4 + 0) := by
  rw [← add_branchOffset_add]
  simp

/-- The target of BLX, whose H bit adds a halfword. -/
theorem add_branchOffset_halfword (pc : Word) (offset : BitVec 24) (h : Bool) :
    pc + (branchOffset offset + if h then 2 else 0) =
      BitVec.ofInt 32 (pc.toNat + offset.toInt * 4 + if h then 2 else 0) := by
  rw [← add_branchOffset_add]
  cases h <;> rfl

/-! ## The T bit -/

/-- Setting T sets bit 5 and no other. -/
theorem withT_true_getLsbD (w : Word) (k : Nat) : (withT w true).getLsbD k = (w.getLsbD k || decide (k = 5)) := by
  have tMask : (0x20 : Word) = BitVec.twoPow 32 5 := by decide
  rw [withT, if_pos rfl, BitVec.getLsbD_or, tMask, BitVec.getLsbD_twoPow]
  simp [eq_comm]

/-! ## What a branch writes and leaves -/

theorem branchBy_get_pc (o : Word) (s : State) : (branchBy o s).regs.get Reg.pc = s.readReg Reg.pc + o := by
  rw [branchBy, writeReg_get, if_pos rfl]

theorem branchBy_get_of_ne_pc (o : Word) (s : State) {i : Reg} (hi : i ≠ Reg.pc) :
    (branchBy o s).regs.get i = s.regs.get i := by
  rw [branchBy, writeReg_get, if_neg hi]

theorem branchBy_jumped_eq_true (o : Word) (s : State) : (branchBy o s).jumped = true := Bool.or_true _

/-- A branch touches the registers and jumped only. -/
theorem branchBy_frame (o : Word) (s : State) :
    branchBy o s = { s with regs := (branchBy o s).regs, jumped := true } := by
  rw [← branchBy_jumped_eq_true o s]
  rfl

theorem saveReturn_get_lr (s : State) : (saveReturn s).regs.get Reg.lr = s.readReg Reg.pc - 4 := by
  rw [saveReturn, writeReg_get, if_pos rfl]

theorem saveReturn_get_of_ne_lr (s : State) {i : Reg} (hi : i ≠ Reg.lr) :
    (saveReturn s).regs.get i = s.regs.get i := by
  rw [saveReturn, writeReg_get, if_neg hi]

/-! ## What a branch with link writes and leaves -/

/-- Saving the return address first leaves the target as it is. -/
theorem branchBy_saveReturn_get_pc (o : Word) (s : State) :
    (branchBy o (saveReturn s)).regs.get Reg.pc = s.readReg Reg.pc + o := by
  rw [branchBy_get_pc, readReg_pc, saveReturn_get_of_ne_lr s (by decide), readReg_pc]

theorem branchBy_saveReturn_get_lr (o : Word) (s : State) :
    (branchBy o (saveReturn s)).regs.get Reg.lr = s.readReg Reg.pc - 4 := by
  rw [branchBy_get_of_ne_pc o _ (by decide), saveReturn_get_lr]

theorem branchBy_saveReturn_get_of_ne (o : Word) (s : State) {i : Reg} (hpc : i ≠ Reg.pc) (hlr : i ≠ Reg.lr) :
    (branchBy o (saveReturn s)).regs.get i = s.regs.get i := by
  rw [branchBy_get_of_ne_pc o _ hpc, saveReturn_get_of_ne_lr s hlr]

theorem branchBy_saveReturn_frame (o : Word) (s : State) :
    branchBy o (saveReturn s) = { s with regs := (branchBy o (saveReturn s)).regs, jumped := true } :=
  branchBy_frame o (saveReturn s)

/-! ## The instructions -/

theorem conditional_failed {c : Cond} {s : State} (h : condPassed c s.cpsr = false) (body : Result) :
    conditional c s body = .next s := by
  simp [conditional, h]

theorem exec_b_passed {c : Cond} {s : State} (hc : condPassed c s.cpsr = true) (offset : BitVec 24) :
    exec (.b c offset) s = .next (branchBy (branchOffset offset) s) :=
  conditional_passed hc _

theorem exec_bl_passed {c : Cond} {s : State} (hc : condPassed c s.cpsr = true) (offset : BitVec 24) :
    exec (.bl c offset) s = .next (branchBy (branchOffset offset) (saveReturn s)) :=
  conditional_passed hc _

theorem exec_b_failed {c : Cond} {s : State} (hc : condPassed c s.cpsr = false) (offset : BitVec 24) :
    exec (.b c offset) s = .next s :=
  conditional_failed hc _

theorem exec_bl_failed {c : Cond} {s : State} (hc : condPassed c s.cpsr = false) (offset : BitVec 24) :
    exec (.bl c offset) s = .next s :=
  conditional_failed hc _

theorem exec_blx (h : Bool) (offset : BitVec 24) (s : State) :
    exec (.blx h offset) s = .next { branchBy (branchOffset offset + if h then 2 else 0) (saveReturn s) with
      cpsr := withT s.cpsr true } :=
  rfl

/-! ## The obligation -/

/-- Settles O42: B is `branchBy`, BL and BLX are `branchBy` after `saveReturn`; the word sum of the target is the exact
sum modulo 2^32. -/
theorem branchesTargetAndLink : Obligations.BranchesTargetAndLink := by
  unfold Obligations.BranchesTargetAndLink
  intro offset s target
  refine ⟨fun c hc => ⟨?b, ?bl⟩, fun c hc => ⟨exec_b_failed hc offset, exec_bl_failed hc offset⟩, fun h => ?blx⟩
  case b =>
    have atTarget := (branchBy_get_pc _ s).trans (add_branchOffset _ offset)
    exact ⟨_, exec_b_passed hc offset, atTarget, branchBy_jumped_eq_true .., fun _ => branchBy_get_of_ne_pc _ s,
      branchBy_frame ..⟩
  case bl =>
    have atTarget := (branchBy_saveReturn_get_pc _ s).trans (add_branchOffset _ offset)
    exact ⟨_, exec_bl_passed hc offset, atTarget, branchBy_jumped_eq_true .., branchBy_saveReturn_get_lr _ s,
      fun _ => branchBy_saveReturn_get_of_ne _ s, branchBy_saveReturn_frame ..⟩
  case blx =>
    have atTarget := (branchBy_saveReturn_get_pc _ s).trans (add_branchOffset_halfword _ offset h)
    have setsT : flagT (withT s.cpsr true) = true := by simp [flagT, withT_true_getLsbD]
    have keepsOthers (k : Nat) (hk : k ≠ 5) : (withT s.cpsr true).getLsbD k = s.cpsr.getLsbD k := by
      simp [withT_true_getLsbD, hk]
    have setsJumped := branchBy_jumped_eq_true (branchOffset offset + if h then 2 else 0) (saveReturn s)
    exact ⟨_, exec_blx h offset s, atTarget, setsJumped, branchBy_saveReturn_get_lr _ s, setsT, keepsOthers,
      fun _ => branchBy_saveReturn_get_of_ne _ s,
      congrArg (fun t : State => { t with cpsr := withT s.cpsr true }) (branchBy_saveReturn_frame _ s)⟩

end Sys2Proof.Machine
end

section
/-! Words as lists of fields: what a packed word reads at each field, and when a packed word agrees with another word under
a mask (R112 to R115). -/
namespace Sys2Proof

/-! ## Fields of a word -/

theorem getLsbD_bits (w : Word) (lo n j : Nat) : (bits w lo n).getLsbD j = (decide (j < n) && w.getLsbD (lo + j)) := by
  rw [bits, BitVec.getLsbD_extractLsb']

theorem bits_and (w m : Word) (lo n : Nat) : bits (w &&& m) lo n = bits w lo n &&& bits m lo n :=
  BitVec.extractLsb'_and

theorem regAt_eq_iff {w : Word} {lo : Nat} {r : Reg} : (bits w lo 4).toNat = r.val ↔ regAt w lo = r :=
  Fin.ext_iff.symm

theorem bit_eq_iff {w : Word} {k : Nat} {b : Bool} : (bits w k 1).toNat = b.toNat ↔ bit w k = b := by
  refine ⟨fun h => bit_eq (by rwa [toNat_bits] at h), ?_⟩
  rintro rfl
  rw [toNat_bits, bit, BitVec.getLsbD, Nat.testBit_eq_decide_div_mod_eq]
  obtain h | h := Nat.mod_two_eq_zero_or_one (w.toNat / 2 ^ k) <;> simp [h]

theorem bit_eq_false_iff {w : Word} {k : Nat} : (bits w k 1).toNat = 0 ↔ bit w k = false := bit_eq_iff (b := false)

theorem bit_eq_true_iff {w : Word} {k : Nat} : (bits w k 1).toNat = 1 ↔ bit w k = true := bit_eq_iff (b := true)

/-! ## Packed fields -/

/-- Counted down from bit `n`, the fields of `w` hold the listed values. -/
def FieldsAre (w : Word) : List (Nat × Nat) → Nat → Prop
  | [], n => n = 0
  | (k, v) :: rest, n => (bits w (n - k) k).toNat = v ∧ FieldsAre w rest (n - k)

/-- The value fits a field of `k` bits: the fact that `simp` looks up, where `v < 2 ^ k` would be normalized away. -/
def Fits (k v : Nat) : Prop := v < 2 ^ k

theorem fits_toNat {k : Nat} (v : BitVec k) : Fits k v.toNat := v.isLt

theorem fits_bool (b : Bool) : Fits 1 b.toNat := b.toNat_lt

theorem fits_reg (r : Reg) : Fits 4 r.val := r.isLt

theorem fits_cond (c : Cond) : Fits 4 c.code := Nat.lt_succ_of_lt c.code_lt

theorem fits_kind (k : ShiftKind) : Fits 2 k.code := k.code_lt

theorem fits_fifteen : Fits 4 15 := Nat.lt_succ_self 15

theorem fits_zero (k : Nat) : Fits k 0 := Nat.two_pow_pos k

/-- Counted down from bit `n`, each listed value is what `w` holds in its field, or the mask has no bit there. -/
def Agrees (w mask : Word) : List (Nat × Nat) → Nat → Prop
  | [], n => n = 0
  | (k, v) :: rest, n =>
    k ≤ n ∧ ((bits w (n - k) k).toNat = v ∨ (bits mask (n - k) k = 0 ∧ Fits k v)) ∧ Agrees w mask rest (n - k)

theorem Agrees.fit {w mask : Word} {l : List (Nat × Nat)} {n : Nat} (h : Agrees w mask l n) : FieldsFit l n := by
  induction l generalizing n with
  | nil => exact h
  | cons f rest ih =>
    obtain ⟨hk, hf, hr⟩ := h
    refine ⟨?_, hk, ih hr⟩
    obtain hf | ⟨-, hv⟩ := hf
    · exact hf ▸ BitVec.isLt _
    · exact hv

/-- Reading a field back off the packed number, below anything. -/
theorem fieldsAre_of_fold {w : Word} {l : List (Nat × Nat)} {n : Nat} (h : FieldsFit l n) (acc : Nat)
    (hw : ∀ lo k, lo + k ≤ n →
      (bits w lo k).toNat = l.foldl (fun acc f => acc * 2 ^ f.1 + f.2) acc / 2 ^ lo % 2 ^ k) : FieldsAre w l n := by
  induction l generalizing n acc with
  | nil => exact h
  | cons f rest ih =>
    obtain ⟨k, v⟩ := f
    obtain ⟨hv, hk, hr⟩ := h
    refine ⟨?_, ih hr (acc * 2 ^ k + v) fun lo j hj => hw lo j (by omega)⟩
    obtain ⟨low, hl, he⟩ := foldl_fields hr (acc * 2 ^ k + v)
    rw [hw _ _ (by omega), List.foldl, he, Nat.mul_comm _ (2 ^ (n - k)), Nat.mul_add_div (Nat.two_pow_pos _),
      Nat.div_eq_of_lt hl, Nat.add_zero, Nat.mul_comm acc, Nat.mul_add_mod, Nat.mod_eq_of_lt hv]

theorem pack_congr {l l' : List (Nat × Nat)}
    (h : l.foldl (fun acc f => acc * 2 ^ f.1 + f.2) 0 = l'.foldl (fun acc f => acc * 2 ^ f.1 + f.2) 0) : pack l = pack l' :=
  congrArg (BitVec.ofNat 32) h

/-- A packed word holds its fields. -/
theorem fieldsAre_pack {l : List (Nat × Nat)} (h : FieldsFit l 32) : FieldsAre (pack l) l 32 := by
  refine fieldsAre_of_fold h 0 fun lo k hk => ?_
  rw [toNat_bits, toNat_pack, show 32 = lo + (32 - lo) by omega, Nat.pow_add, Nat.mod_mul_right_div_self,
    Nat.mod_mod_of_dvd _ (Nat.pow_dvd_pow 2 (by omega))]

theorem testBit_fold_of_agrees {w mask : Word} {l : List (Nat × Nat)} {n : Nat} (h : Agrees w mask l n) (acc j : Nat)
    (hj : j < n) (hm : mask.getLsbD j = true) :
    (l.foldl (fun acc f => acc * 2 ^ f.1 + f.2) acc).testBit j = w.getLsbD j := by
  induction l generalizing n acc with
  | nil => exact absurd hj (by simp [show n = 0 from h])
  | cons f rest ih =>
    obtain ⟨k, v⟩ := f
    obtain ⟨hv, hk, -⟩ := h.fit
    obtain ⟨-, hf, hr⟩ := h
    by_cases hlow : j < n - k
    · exact ih hr _ hlow
    obtain ⟨i, rfl⟩ := Nat.exists_eq_add_of_le (Nat.le_of_not_lt hlow)
    have hi : i < k := by omega
    obtain ⟨low, hl, he⟩ := foldl_fields hr.fit (acc * 2 ^ k + v)
    rw [List.foldl, he, Nat.mul_comm _ (2 ^ (n - k)), Nat.testBit_two_pow_mul_add _ hl, if_neg (by omega),
      Nat.add_sub_cancel_left, Nat.mul_comm acc, Nat.testBit_two_pow_mul_add _ hv, if_pos hi]
    obtain hf | hf := hf
    · have := getLsbD_bits w (n - k) k i
      rw [BitVec.getLsbD, hf] at this
      simpa [hi] using this
    · have := getLsbD_bits mask (n - k) k i
      simp [hf.1, hi, hm] at this

/-- A packed word is any word that agrees with its fields, wherever the mask looks. -/
theorem pack_and_of_agrees {w mask : Word} {l : List (Nat × Nat)} (h : Agrees w mask l 32) :
    pack l &&& mask = w &&& mask := by
  apply BitVec.eq_of_getLsbD_eq
  intro j hj
  rw [BitVec.getLsbD_and, BitVec.getLsbD_and]
  cases hm : mask.getLsbD j
  · simp
  · rw [pack, BitVec.getLsbD_ofNat, testBit_fold_of_agrees h 0 j hj hm]
    simp [hj]

end Sys2Proof
end

section
/-! Decoding what was encoded (R112 to R116): the fields of each format, read back off its packed word, lead the decode tree
to the instruction. -/
namespace Sys2Proof

open Laws.CondField (fit_imm fit_shift)

theorem decode_of_code {w : Word} {c : Cond} (h : (bits w 28 4).toNat = c.code) : decode w = decodeConditional c w := by
  simp [decode, h]

/-! ## Data processing -/

/-- The fields of formats DPI and DPS above bit 12. -/
theorem packDp_fields (c : Cond) {form opcode : Nat} (sf : Bool) (rn rd : Reg) {low : List (Nat × Nat)} (hf : form < 8)
    (ho : opcode < 16) (hl : FieldsFit low 12) :
    let w := packDp c form opcode sf rn rd low
    (bits w 28 4).toNat = c.code ∧ (bits w 25 3).toNat = form ∧ (bits w 21 4).toNat = opcode ∧ bit w 20 = sf ∧
      regAt w 16 = rn ∧ regAt w 12 = rd ∧ FieldsAre w low 12 := by
  have := c.code_lt; have := sf.toNat_lt
  have fit : FieldsFit ([(4, c.code), (3, form), (4, opcode), (1, sf.toNat), (4, rn.val), (4, rd.val)] ++ low) 32 := by
    simp only [List.cons_append, List.nil_append, fieldsFit_cons, hl, and_true]
    omega
  simpa only [packDp, List.cons_append, List.nil_append, FieldsAre, Nat.reduceSub, bit_eq_iff, regAt_eq_iff] using
    fieldsAre_pack fit

/-- Format DPI decodes by `decodeImmediate`. -/
theorem decode_packDp_imm {i : Instr} {c : Cond} {opcode : Nat} {sf : Bool} {rn rd : Reg} {op : ImmOperand}
    (ho : opcode < 16)
    (hd : ∀ w, (bits w 21 4).toNat = opcode → bit w 20 = sf → regAt w 16 = rn → regAt w 12 = rd → immOperandAt w = op →
      decodeImmediate c w = i) : decode (packDp c 1 opcode sf rn rd (packImm op)) = i := by
  obtain ⟨hc, hform, hopcode, hsf, hrn, hrd, hlow⟩ :=
    packDp_fields c sf rn rd (form := 1) (by decide) ho (fit_imm op)
  generalize packDp c 1 opcode sf rn rd (packImm op) = w at *
  simp only [packImm, FieldsAre, Nat.reduceSub, BitVec.toNat_inj] at hlow
  obtain ⟨hrot, himm, -⟩ := hlow
  rw [decode_of_code hc]
  simp only [decodeConditional, hform]
  exact hd w hopcode hsf hrn hrd (by rw [immOperandAt, hrot, himm])

/-- Format DPS decodes by `decodeShift`: its bit 4 is 0. -/
theorem decode_packDp_shift {i : Instr} {c : Cond} {opcode : Nat} {sf : Bool} {rn rd : Reg} {op : ShiftOperand}
    (ho : opcode < 16)
    (hd : ∀ w, (bits w 21 4).toNat = opcode → bit w 20 = sf → regAt w 16 = rn → regAt w 12 = rd →
      shiftOperandAt w = op → decodeShift c w = i) : decode (packDp c 0 opcode sf rn rd (packShift op)) = i := by
  obtain ⟨hc, hform, hopcode, hsf, hrn, hrd, hlow⟩ :=
    packDp_fields c sf rn rd (form := 0) (by decide) ho (fit_shift op)
  generalize packDp c 0 opcode sf rn rd (packShift op) = w at *
  simp only [packShift, FieldsAre, Nat.reduceSub, BitVec.toNat_inj, regAt_eq_iff, bit_eq_false_iff] at hlow
  obtain ⟨hamount, hkind, hbit4, hrm, -⟩ := hlow
  rw [decode_of_code hc]
  simp only [decodeConditional, hform, decodeDataProcessing, hbit4]
  exact hd w hopcode hsf hrn hrd (by rw [shiftOperandAt, hamount, hkind, hrm, ShiftKind.ofCode_code])

theorem decode_encode_dpRegisterShift (c : Cond) (opcode : BitVec 4) (sf : Bool) (rn rd rs : Reg) (kind : ShiftKind)
    (rm : Reg) :
    decode (encode (.dpRegisterShift c opcode sf rn rd rs kind rm)) = .dpRegisterShift c opcode sf rn rd rs kind rm := by
  have fit : FieldsFit [(4, rs.val), (1, 0), (2, kind.code), (1, 1), (4, rm.val)] 12 := by
    have := kind.code_lt
    simp only [fieldsFit_cons, fieldsFit_nil, and_true]
    omega
  obtain ⟨hc, hform, hopcode, hsf, hrn, hrd, hlow⟩ :=
    packDp_fields c sf rn rd (form := 0) (by decide) opcode.isLt fit
  rw [encode]
  generalize packDp c 0 opcode.toNat sf rn rd _ = w at *
  simp only [FieldsAre, Nat.reduceSub, regAt_eq_iff, bit_eq_false_iff, bit_eq_true_iff] at hlow
  obtain ⟨hrs, hbit7, hkind, hbit4, hrm, -⟩ := hlow
  rw [decode_of_code hc]
  simp [decodeConditional, hform, decodeDataProcessing, hbit4, hbit7, BitVec.eq_of_toNat_eq hopcode, hsf, hrn, hrd, hrs,
    hkind, hrm]

theorem decode_encode_multiplyExtendedSpace (c : Cond) :
    decode (encode (.multiplyExtendedSpace c)) = .multiplyExtendedSpace c := by
  cases c <;> decide

theorem decode_encode_dpImmediateEmptySlot (c : Cond) :
    decode (encode (.dpImmediateEmptySlot c)) = .dpImmediateEmptySlot c := by
  cases c <;> decide

/-! ## Status registers: MRS and MSR lie in the free slots of formats DPS and DPI (R110) -/

theorem encode_mrs (c : Cond) (r : Bool) (rd : Reg) :
    encode (.mrs c r rd) = packDp c 0 (8 + 2 * r.toNat) false 15 rd (packShift ⟨0, .lsl, 0⟩) := by
  refine pack_congr ?_
  simp only [packShift, ShiftKind.code, List.cons_append, List.nil_append, List.foldl, Bool.toNat_false,
    show (15 : Reg).val = 15 from rfl, show (0 : Reg).val = 0 from rfl, show (0 : BitVec 5).toNat = 0 from rfl]
  omega

theorem encode_msrReg (c : Cond) (r : Bool) (mask : BitVec 4) (rm : Reg) :
    encode (.msrReg c r mask rm) = packDp c 0 (9 + 2 * r.toNat) false mask.toFin 15 (packShift ⟨0, .lsl, rm⟩) := by
  refine pack_congr ?_
  simp only [packShift, ShiftKind.code, List.cons_append, List.nil_append, List.foldl, Bool.toNat_false, BitVec.val_toFin,
    show (15 : Reg).val = 15 from rfl, show (0 : BitVec 5).toNat = 0 from rfl]
  omega

theorem encode_msrImm (c : Cond) (r : Bool) (mask : BitVec 4) (op : ImmOperand) :
    encode (.msrImm c r mask op) = packDp c 1 (9 + 2 * r.toNat) false mask.toFin 15 (packImm op) := by
  refine pack_congr ?_
  simp only [packImm, List.cons_append, List.nil_append, List.foldl, Bool.toNat_false, BitVec.val_toFin,
    show (15 : Reg).val = 15 from rfl]
  omega

theorem bits_of_regAt_eq_toFin {w : Word} {lo : Nat} {v : BitVec 4} (h : regAt w lo = v.toFin) : bits w lo 4 = v :=
  BitVec.eq_of_toNat_eq (congrArg Fin.val h)

theorem decode_encode_mrs (c : Cond) (r : Bool) (rd : Reg) : decode (encode (.mrs c r rd)) = .mrs c r rd := by
  rw [encode_mrs]
  refine decode_packDp_shift (by cases r <;> decide) fun w ho hsf _ hrd _ => ?_
  cases r <;> simp [decodeShift, ho, hsf, hrd]

theorem decode_encode_msrReg (c : Cond) (r : Bool) (mask : BitVec 4) (rm : Reg) :
    decode (encode (.msrReg c r mask rm)) = .msrReg c r mask rm := by
  rw [encode_msrReg]
  refine decode_packDp_shift (by cases r <;> decide) fun w ho hsf hmask _ hop => ?_
  have hrm : regAt w 0 = rm := congrArg ShiftOperand.rm hop
  cases r <;> simp [decodeShift, ho, hsf, bits_of_regAt_eq_toFin hmask, hrm]

theorem decode_encode_msrImm (c : Cond) (r : Bool) (mask : BitVec 4) (op : ImmOperand) :
    decode (encode (.msrImm c r mask op)) = .msrImm c r mask op := by
  rw [encode_msrImm]
  refine decode_packDp_imm (by cases r <;> decide) fun w ho hsf hmask _ hop => ?_
  cases r <;> simp [decodeImmediate, ho, hsf, bits_of_regAt_eq_toFin hmask, hop]

/-! ## Transfers -/

/-- Format LSI decodes by `decodeLoadStore`. -/
theorem decode_packLs {i : Instr} {c : Cond} {b l : Bool} {m : LsOperand}
    (hd : ∀ w, bit w 22 = b → bit w 20 = l → lsOperandAt w = m → decodeLoadStore c w = i) :
    decode (packLs c b l m) = i := by
  have := c.code_lt; have := m.p.toNat_lt; have := m.u.toNat_lt; have := b.toNat_lt; have := m.w.toNat_lt
  have := l.toNat_lt; have := m.imm12.isLt
  have h := fieldsAre_pack (l := [(4, c.code), (3, 2), (1, m.p.toNat), (1, m.u.toNat), (1, b.toNat), (1, m.w.toNat),
    (1, l.toNat), (4, m.rn.val), (4, m.rd.val), (12, m.imm12.toNat)])
    (by simp only [fieldsFit_cons, fieldsFit_nil, and_true]; omega)
  rw [packLs]
  generalize pack _ = w at *
  simp only [FieldsAre, Nat.reduceSub, bit_eq_iff, regAt_eq_iff, BitVec.toNat_inj] at h
  obtain ⟨hc, hform, hp, hu, hb, hw, hl, hrn, hrd, himm, -⟩ := h
  rw [decode_of_code hc]
  simp only [decodeConditional, hform]
  exact hd w hb hl (by rw [lsOperandAt, hp, hu, hw, hrn, hrd, himm])

/-- Format LSM decodes by `decodeMultiple`. -/
theorem decode_packLsm {i : Instr} {c : Cond} {sBit l : Bool} {m : LsmOperand}
    (hd : ∀ w, bit w 22 = sBit → bit w 20 = l → lsmOperandAt w = m → decodeMultiple c w = i) :
    decode (packLsm c sBit l m) = i := by
  have := c.code_lt; have := m.p.toNat_lt; have := m.u.toNat_lt; have := sBit.toNat_lt; have := m.w.toNat_lt
  have := l.toNat_lt; have := m.list.isLt
  have h := fieldsAre_pack (l := [(4, c.code), (3, 4), (1, m.p.toNat), (1, m.u.toNat), (1, sBit.toNat), (1, m.w.toNat),
    (1, l.toNat), (4, m.rn.val), (16, m.list.toNat)])
    (by simp only [fieldsFit_cons, fieldsFit_nil, and_true]; omega)
  rw [packLsm]
  generalize pack _ = w at *
  simp only [FieldsAre, Nat.reduceSub, bit_eq_iff, regAt_eq_iff, BitVec.toNat_inj] at h
  obtain ⟨hc, hform, hp, hu, hs, hw, hl, hrn, hlist, -⟩ := h
  rw [decode_of_code hc]
  simp only [decodeConditional, hform]
  exact hd w hs hl (by rw [lsmOperandAt, hp, hu, hw, hrn, hlist])

theorem decode_encode_lsRegisterOffset (c : Cond) (p u b w l : Bool) (rn rd : Reg) (op : ShiftOperand) :
    decode (encode (.lsRegisterOffset c p u b w l rn rd op)) = .lsRegisterOffset c p u b w l rn rd op := by
  have := c.code_lt; have := p.toNat_lt; have := u.toNat_lt; have := b.toNat_lt; have := w.toNat_lt
  have := l.toNat_lt; have := op.amount.isLt; have := op.kind.code_lt
  have h := fieldsAre_pack (l := [(4, c.code), (3, 3), (1, p.toNat), (1, u.toNat), (1, b.toNat), (1, w.toNat),
    (1, l.toNat), (4, rn.val), (4, rd.val)] ++ packShift op)
    (by simp only [packShift, List.cons_append, List.nil_append, fieldsFit_cons, fieldsFit_nil, and_true]; omega)
  rw [encode]
  generalize pack _ = x at *
  simp only [packShift, List.cons_append, List.nil_append, FieldsAre, Nat.reduceSub, bit_eq_iff, regAt_eq_iff,
    BitVec.toNat_inj] at h
  obtain ⟨hc, hform, h⟩ := h
  rw [decode_of_code hc]
  simp [decodeConditional, hform, shiftOperandAt, h]

/-! ## Branches -/

/-- B and BL: bits [27:24] are 1010 and 1011. -/
theorem decode_branch (c : Cond) (link : Bool) (offset : BitVec 24) :
    decode (pack [(4, c.code), (4, 10 + link.toNat), (24, offset.toNat)]) = if link then .bl c offset else .b c offset := by
  have := c.code_lt; have := link.toNat_lt; have := offset.isLt
  have h := fieldsAre_pack (l := [(4, c.code), (3, 5), (1, link.toNat), (24, offset.toNat)])
    (by simp only [fieldsFit_cons, fieldsFit_nil, and_true]; omega)
  rw [pack_congr (l' := [(4, c.code), (3, 5), (1, link.toNat), (24, offset.toNat)]) (by simp only [List.foldl]; omega)]
  generalize pack _ = w at *
  simp only [FieldsAre, Nat.reduceSub, bit_eq_iff, BitVec.toNat_inj] at h
  obtain ⟨hc, hform, hlink, hoffset, -⟩ := h
  rw [decode_of_code hc]
  simp [decodeConditional, hform, hlink, hoffset]

/-- The seven top bits 1111101 of BLX as the condition field and bits [27:25]. -/
theorem encode_blx (h : Bool) (offset : BitVec 24) :
    encode (.blx h offset) = pack [(4, 15), (3, 5), (1, h.toNat), (24, offset.toNat)] :=
  pack_congr (by simp only [List.foldl]; omega)

theorem decode_of_blx_fields {w : Word} {h : Bool} {offset : BitVec 24}
    (hf : FieldsAre w [(4, 15), (3, 5), (1, h.toNat), (24, offset.toNat)] 32) : decode w = .blx h offset := by
  simp only [FieldsAre, Nat.reduceSub, bit_eq_iff, BitVec.toNat_inj] at hf
  obtain ⟨hc, hform, hh, hoffset, -⟩ := hf
  have noCond : Cond.ofCode 15 = none := rfl
  simp [decode, hc, noCond, hform, hh, hoffset]

theorem decode_encode_blx (h : Bool) (offset : BitVec 24) : decode (encode (.blx h offset)) = .blx h offset := by
  have fit : FieldsFit [(4, 15), (3, 5), (1, h.toNat), (24, offset.toNat)] 32 := by
    have := h.toNat_lt; have := offset.isLt
    simp only [fieldsFit_cons, fieldsFit_nil, and_true]
    omega
  rw [encode_blx]
  exact decode_of_blx_fields (fieldsAre_pack fit)

/-! ## Coprocessors and SWI: bits [27:25] are 111, and bit 24 tells SWI from the others (R109) -/

/-- Formats MCR and MRC. -/
theorem decode_packCp (c : Cond) (l : Bool) (d : CpOperand) :
    decode (packCp c l d) = if l then .mrc c d else .mcr c d := by
  have := c.code_lt; have := d.opcode1.isLt; have := l.toNat_lt; have := d.crn.isLt; have := d.opcode2.isLt
  have := d.crm.isLt
  have h := fieldsAre_pack (l := [(4, c.code), (3, 7), (1, 0), (3, d.opcode1.toNat), (1, l.toNat), (4, d.crn.toNat),
    (4, d.rd.val), (4, d.cp.val), (3, d.opcode2.toNat), (1, 1), (4, d.crm.toNat)])
    (by simp only [fieldsFit_cons, fieldsFit_nil, and_true]; omega)
  rw [packCp, pack_congr (l' := [(4, c.code), (3, 7), (1, 0), (3, d.opcode1.toNat), (1, l.toNat), (4, d.crn.toNat),
    (4, d.rd.val), (4, d.cp.val), (3, d.opcode2.toNat), (1, 1), (4, d.crm.toNat)]) (by simp only [List.foldl]; omega)]
  generalize pack _ = w at *
  simp only [FieldsAre, Nat.reduceSub, bit_eq_false_iff, bit_eq_true_iff, bit_eq_iff, regAt_eq_iff, BitVec.toNat_inj] at h
  obtain ⟨hc, hform, h⟩ := h
  rw [decode_of_code hc]
  simp [decodeConditional, hform, decodeCoprocessor, cpOperandAt, h]

theorem decode_encode_cdp (c : Cond) (d : CdpOperand) : decode (encode (.cdp c d)) = .cdp c d := by
  have := c.code_lt; have := d.opcode1.isLt; have := d.crn.isLt; have := d.crd.isLt; have := d.opcode2.isLt
  have := d.crm.isLt
  have h := fieldsAre_pack (l := [(4, c.code), (3, 7), (1, 0), (4, d.opcode1.toNat), (4, d.crn.toNat),
    (4, d.crd.toNat), (4, d.cp.val), (3, d.opcode2.toNat), (1, 0), (4, d.crm.toNat)])
    (by simp only [fieldsFit_cons, fieldsFit_nil, and_true]; omega)
  rw [encode, pack_congr (l' := [(4, c.code), (3, 7), (1, 0), (4, d.opcode1.toNat), (4, d.crn.toNat),
    (4, d.crd.toNat), (4, d.cp.val), (3, d.opcode2.toNat), (1, 0), (4, d.crm.toNat)]) (by simp only [List.foldl]; omega)]
  generalize pack _ = w at *
  simp only [FieldsAre, Nat.reduceSub, bit_eq_false_iff, regAt_eq_iff, BitVec.toNat_inj] at h
  obtain ⟨hc, hform, h⟩ := h
  rw [decode_of_code hc]
  simp [decodeConditional, hform, decodeCoprocessor, cdpOperandAt, h]

theorem decode_encode_swi (c : Cond) (number : BitVec 24) : decode (encode (.swi c number)) = .swi c number := by
  have := c.code_lt; have := number.isLt
  have h := fieldsAre_pack (l := [(4, c.code), (3, 7), (1, 1), (24, number.toNat)])
    (by simp only [fieldsFit_cons, fieldsFit_nil, and_true]; omega)
  rw [encode, pack_congr (l' := [(4, c.code), (3, 7), (1, 1), (24, number.toNat)]) (by simp only [List.foldl]; omega)]
  generalize pack _ = w at *
  simp only [FieldsAre, Nat.reduceSub, bit_eq_true_iff, BitVec.toNat_inj] at h
  obtain ⟨hc, hform, h⟩ := h
  rw [decode_of_code hc]
  simp [decodeConditional, hform, decodeCoprocessor, h]

theorem decode_encode_ldcStc (c : Cond) (p u n w l : Bool) (rn : Reg) (crd : BitVec 4) (cp : Fin 16)
    (offset8 : BitVec 8) :
    decode (encode (.ldcStc c p u n w l rn crd cp offset8)) = .ldcStc c p u n w l rn crd cp offset8 := by
  have := c.code_lt; have := p.toNat_lt; have := u.toNat_lt; have := n.toNat_lt; have := w.toNat_lt
  have := l.toNat_lt; have := crd.isLt; have := offset8.isLt
  have h := fieldsAre_pack (l := [(4, c.code), (3, 6), (1, p.toNat), (1, u.toNat), (1, n.toNat), (1, w.toNat),
    (1, l.toNat), (4, rn.val), (4, crd.toNat), (4, cp.val), (8, offset8.toNat)])
    (by simp only [fieldsFit_cons, fieldsFit_nil, and_true]; omega)
  rw [encode]
  generalize pack _ = x at *
  simp only [FieldsAre, Nat.reduceSub, bit_eq_iff, regAt_eq_iff, BitVec.toNat_inj] at h
  obtain ⟨hc, hform, h⟩ := h
  rw [decode_of_code hc]
  simp [decodeConditional, hform, h]

/-! ## The obligation -/

/-- Settles O1: by the format of the instruction's word. -/
theorem decodeEncodeRoundTrip : Obligations.DecodeEncodeRoundTrip := by
  unfold Obligations.DecodeEncodeRoundTrip
  intro i
  cases i
  case blx => exact decode_encode_blx ..
  case undefinedNv => decide
  case dpRegisterShift => exact decode_encode_dpRegisterShift ..
  case multiplyExtendedSpace => exact decode_encode_multiplyExtendedSpace ..
  case mrs => exact decode_encode_mrs ..
  case msrReg => exact decode_encode_msrReg ..
  case msrImm => exact decode_encode_msrImm ..
  case dpImmediateEmptySlot => exact decode_encode_dpImmediateEmptySlot ..
  case andImm | eorImm | subImm | rsbImm | addImm | adcImm | sbcImm | rscImm | orrImm | movImm | bicImm | mvnImm |
      tstImm | teqImm | cmpImm | cmnImm =>
    refine decode_packDp_imm (by decide) fun w hopcode hsf hrn hrd hop => ?_
    simp [decodeImmediate, hopcode, hsf, hrn, hrd, hop]
  case andShift | eorShift | subShift | rsbShift | addShift | adcShift | sbcShift | rscShift | orrShift | movShift |
      bicShift | mvnShift | tstShift | teqShift | cmpShift | cmnShift =>
    refine decode_packDp_shift (by decide) fun w hopcode hsf hrn hrd hop => ?_
    simp [decodeShift, hopcode, hsf, hrn, hrd, hop]
  case ldr | str | ldrb | strb => exact decode_packLs fun w hb hl hm => by simp [decodeLoadStore, hb, hl, hm]
  case lsRegisterOffset => exact decode_encode_lsRegisterOffset ..
  case ldm | stm | lsmSBit => exact decode_packLsm fun w hs hl hm => by simp [decodeMultiple, hs, hl, hm]
  case b => exact decode_branch _ false _
  case bl => exact decode_branch _ true _
  case ldcStc => exact decode_encode_ldcStc ..
  case cdp => exact decode_encode_cdp ..
  case mcr => exact decode_packCp _ false _
  case mrc => exact decode_packCp _ true _
  case swi => exact decode_encode_swi ..

end Sys2Proof
end

section
/-! The opcode table against the decoder and the encoder (R117, R118, R126): each instruction's row, the bits it looks at, and
the first row that matches a word. -/
namespace Sys2Proof

/-! ## The row of an instruction -/

/-- The row of the opcode table that an instruction's priority names. -/
def Instr.tableRow (i : Instr) : OpcodeRow :=
  opcodeRows.getD (i.row - 1) ⟨0, 0, 0, 0⟩

theorem Instr.row_bounds (i : Instr) : 1 ≤ i.row ∧ i.row ≤ 55 := by
  cases i <;> simp [Instr.row]

/-- The encoding of the instruction decoded from `w` keeps the bits of `w` that its row looks at. -/
def KeepsRow (w : Word) (i : Instr) : Prop :=
  encode i &&& i.tableRow.looked = w &&& i.tableRow.looked

theorem keepsRow_of_agrees {w looked : Word} {i : Instr} {l : List (Nat × Nat)} (he : encode i = pack l)
    (hl : i.tableRow.looked = looked) (h : Agrees w looked l 32) : KeepsRow w i := by
  rw [KeepsRow, he, hl]
  exact pack_and_of_agrees h

/-! ## Fields of a word as the encoder writes them -/

theorem toNat_bits_one (w : Word) (k : Nat) : (bits w k 1).toNat = (bit w k).toNat := bit_eq_iff.2 rfl

theorem toNat_bits_four (w : Word) (lo : Nat) : (bits w lo 4).toNat = (regAt w lo).val := rfl

theorem code_ofCode_bits (w : Word) (lo : Nat) : (ShiftKind.ofCode (bits w lo 2).toNat).code = (bits w lo 2).toNat := by
  have h := (bits w lo 2).isLt
  generalize (bits w lo 2).toNat = n at h
  match n, h with
  | 0, _ | 1, _ | 2, _ | 3, _ => rfl

section
variable {w : Word} {c : Cond}

theorem keepsRow_dpImm {i : Instr} {opcode : Nat} (hc : (bits w 28 4).toNat = c.code) (hform : (bits w 25 3).toNat = 1)
    (ho : (bits w 21 4).toNat = opcode)
    (he : encode i = packDp c 1 opcode (bit w 20) (regAt w 16) (regAt w 12) (packImm (immOperandAt w)))
    (hl : i.tableRow.looked = 0xffffffff) : KeepsRow w i := by
  refine keepsRow_of_agrees he hl ?_
  simp [packImm, immOperandAt, Agrees, hc, hform, ho, toNat_bits_one, toNat_bits_four]

theorem keepsRow_dpShift {i : Instr} {opcode : Nat} (hc : (bits w 28 4).toNat = c.code) (hform : (bits w 25 3).toNat = 0)
    (hbit4 : bit w 4 = false) (ho : (bits w 21 4).toNat = opcode)
    (he : encode i = packDp c 0 opcode (bit w 20) (regAt w 16) (regAt w 12) (packShift (shiftOperandAt w)))
    (hl : i.tableRow.looked = 0xffffffff) : KeepsRow w i := by
  refine keepsRow_of_agrees he hl ?_
  simp [packShift, shiftOperandAt, Agrees, hc, hform, ho, toNat_bits_one, toNat_bits_four, hbit4, code_ofCode_bits]

theorem keepsRow_emptySlot (hc : (bits w 28 4).toNat = c.code) (hform : (bits w 25 3).toNat = 1)
    (ho : (bits w 21 4).toNat = 8 ∨ (bits w 21 4).toNat = 10) (hsf : bit w 20 = false) :
    KeepsRow w (.dpImmediateEmptySlot c) := by
  have hslot : (bits w 23 5).toNat = 6 ∧ (bits w 20 2).toNat = 0 := by
    rw [← bit_eq_false_iff] at hsf
    simp only [toNat_bits] at *
    omega
  refine keepsRow_of_agrees (looked := 0xffb00000) rfl rfl ?_
  simp +decide [Agrees, hc, hslot, fits_zero]

theorem keepsRow_msrImm {r : Bool} (hc : (bits w 28 4).toNat = c.code) (hform : (bits w 25 3).toNat = 1)
    (ho : (bits w 21 4).toNat = 9 + 2 * r.toNat) (hsf : bit w 20 = false) :
    KeepsRow w (.msrImm c r (bits w 16 4) (immOperandAt w)) := by
  refine keepsRow_of_agrees (looked := 0xffff0fff) (encode_msrImm ..) rfl ?_
  simp +decide [packImm, immOperandAt, Agrees, hc, hform, ho, hsf, toNat_bits_one, fits_fifteen]

theorem keepsRow_msrReg {r : Bool} (hc : (bits w 28 4).toNat = c.code) (hform : (bits w 25 3).toNat = 0)
    (hbit4 : bit w 4 = false) (ho : (bits w 21 4).toNat = 9 + 2 * r.toNat) (hsf : bit w 20 = false) :
    KeepsRow w (.msrReg c r (bits w 16 4) (regAt w 0)) := by
  refine keepsRow_of_agrees (looked := 0xffff001f) (encode_msrReg ..) rfl ?_
  simp +decide [packShift, ShiftKind.code, Agrees, hc, hform, ho, hsf, toNat_bits_one, toNat_bits_four, hbit4, fits_zero,
    fits_fifteen]

theorem keepsRow_mrs {r : Bool} (hc : (bits w 28 4).toNat = c.code) (hform : (bits w 25 3).toNat = 0)
    (hbit4 : bit w 4 = false) (ho : (bits w 21 4).toNat = 8 + 2 * r.toNat) (hsf : bit w 20 = false) :
    KeepsRow w (.mrs c r (regAt w 12)) := by
  refine keepsRow_of_agrees (looked := 0xfff0f010) (encode_mrs ..) rfl ?_
  simp +decide [packShift, ShiftKind.code, Agrees, hc, hform, ho, hsf, toNat_bits_one, toNat_bits_four, hbit4, fits_zero,
    fits_fifteen]

/-! ## The decode tree, branch by branch -/

theorem keepsRow_decodeImmediate (hc : (bits w 28 4).toNat = c.code) (hform : (bits w 25 3).toNat = 1) :
    KeepsRow w (decodeImmediate c w) := by
  unfold decodeImmediate
  split <;> dsimp only
  case h_1 ho | h_2 ho | h_3 ho | h_4 ho | h_5 ho | h_6 ho | h_7 ho | h_8 ho | h_13 ho | h_14 ho | h_15 ho =>
    exact keepsRow_dpImm hc hform ho rfl rfl
  case h_9 ho =>
    split
    case isTrue hsf => exact keepsRow_dpImm hc hform ho (by rw [hsf]; rfl) rfl
    case isFalse hsf => exact keepsRow_emptySlot hc hform (.inl ho) (Bool.eq_false_of_not_eq_true hsf)
  case h_10 ho =>
    split
    case isTrue hsf => exact keepsRow_dpImm hc hform ho (by rw [hsf]; rfl) rfl
    case isFalse hsf => exact keepsRow_msrImm (r := false) hc hform ho (Bool.eq_false_of_not_eq_true hsf)
  case h_11 ho =>
    split
    case isTrue hsf => exact keepsRow_dpImm hc hform ho (by rw [hsf]; rfl) rfl
    case isFalse hsf => exact keepsRow_emptySlot hc hform (.inr ho) (Bool.eq_false_of_not_eq_true hsf)
  case h_12 ho =>
    split
    case isTrue hsf => exact keepsRow_dpImm hc hform ho (by rw [hsf]; rfl) rfl
    case isFalse hsf => exact keepsRow_msrImm (r := true) hc hform ho (Bool.eq_false_of_not_eq_true hsf)
  case h_16 =>
    have ho : (bits w 21 4).toNat = 15 := by
      have := (bits w 21 4).isLt
      simp only [imp_false] at *
      omega
    exact keepsRow_dpImm hc hform ho rfl rfl

theorem keepsRow_decodeShift (hc : (bits w 28 4).toNat = c.code) (hform : (bits w 25 3).toNat = 0)
    (hbit4 : bit w 4 = false) : KeepsRow w (decodeShift c w) := by
  unfold decodeShift
  split <;> dsimp only
  case h_1 ho | h_2 ho | h_3 ho | h_4 ho | h_5 ho | h_6 ho | h_7 ho | h_8 ho | h_13 ho | h_14 ho | h_15 ho =>
    exact keepsRow_dpShift hc hform hbit4 ho rfl rfl
  case h_9 ho =>
    split
    case isTrue hsf => exact keepsRow_dpShift hc hform hbit4 ho (by rw [hsf]; rfl) rfl
    case isFalse hsf => exact keepsRow_mrs (r := false) hc hform hbit4 ho (Bool.eq_false_of_not_eq_true hsf)
  case h_10 ho =>
    split
    case isTrue hsf => exact keepsRow_dpShift hc hform hbit4 ho (by rw [hsf]; rfl) rfl
    case isFalse hsf => exact keepsRow_msrReg (r := false) hc hform hbit4 ho (Bool.eq_false_of_not_eq_true hsf)
  case h_11 ho =>
    split
    case isTrue hsf => exact keepsRow_dpShift hc hform hbit4 ho (by rw [hsf]; rfl) rfl
    case isFalse hsf => exact keepsRow_mrs (r := true) hc hform hbit4 ho (Bool.eq_false_of_not_eq_true hsf)
  case h_12 ho =>
    split
    case isTrue hsf => exact keepsRow_dpShift hc hform hbit4 ho (by rw [hsf]; rfl) rfl
    case isFalse hsf => exact keepsRow_msrReg (r := true) hc hform hbit4 ho (Bool.eq_false_of_not_eq_true hsf)
  case h_16 =>
    have ho : (bits w 21 4).toNat = 15 := by
      have := (bits w 21 4).isLt
      simp only [imp_false] at *
      omega
    exact keepsRow_dpShift hc hform hbit4 ho rfl rfl

theorem keepsRow_decodeDataProcessing (hc : (bits w 28 4).toNat = c.code) (hform : (bits w 25 3).toNat = 0) :
    KeepsRow w (decodeDataProcessing c w) := by
  unfold decodeDataProcessing
  split
  case isFalse hbit4 => exact keepsRow_decodeShift hc hform (Bool.eq_false_of_not_eq_true hbit4)
  case isTrue hbit4 =>
    split
    case isTrue hbit7 =>
      refine keepsRow_of_agrees (looked := 0xfe000090) rfl rfl ?_
      simp +decide [Agrees, hc, hform, toNat_bits_one, hbit4, hbit7, fits_zero]
    case isFalse hbit7 =>
      refine keepsRow_of_agrees (looked := 0xffffffff) rfl rfl ?_
      simp [Agrees, hc, hform, toNat_bits_one, toNat_bits_four, hbit4, hbit7, code_ofCode_bits]

theorem keepsRow_decodeLoadStore (hc : (bits w 28 4).toNat = c.code) (hform : (bits w 25 3).toNat = 2) :
    KeepsRow w (decodeLoadStore c w) := by
  unfold decodeLoadStore
  split <;> rename_i hb hl <;> refine keepsRow_of_agrees (looked := 0xffffffff) rfl rfl ?_ <;>
    simp [lsOperandAt, Agrees, hc, hform, toNat_bits_one, toNat_bits_four, hb, hl]

theorem keepsRow_decodeMultiple (hc : (bits w 28 4).toNat = c.code) (hform : (bits w 25 3).toNat = 4) :
    KeepsRow w (decodeMultiple c w) := by
  unfold decodeMultiple
  split
  case isTrue hs =>
    refine keepsRow_of_agrees (looked := 0xffffffff) rfl rfl ?_
    simp [lsmOperandAt, Agrees, hc, hform, toNat_bits_one, toNat_bits_four, hs]
  case isFalse hs =>
    split <;> rename_i hl <;> refine keepsRow_of_agrees (looked := 0xffffffff) rfl rfl ?_ <;>
      simp [lsmOperandAt, Agrees, hc, hform, toNat_bits_one, toNat_bits_four, hs, hl]

/-- Bits [27:25] = 111, with bit 24, are the four bits the coprocessor formats and SWI open with. -/
theorem toNat_bits_opening {k : Nat} (hform : (bits w 25 3).toNat = k) :
    (bits w 24 4).toNat = 2 * k + (bit w 24).toNat := by
  rw [← toNat_bits_one]
  simp only [toNat_bits] at *
  omega

theorem keepsRow_decodeCoprocessor (hc : (bits w 28 4).toNat = c.code) (hform : (bits w 25 3).toNat = 7) :
    KeepsRow w (decodeCoprocessor c w) := by
  have hopen := toNat_bits_opening hform
  unfold decodeCoprocessor
  split
  case isTrue hbit24 =>
    refine keepsRow_of_agrees (looked := 0xffffffff) rfl rfl ?_
    simp [Agrees, hc, hopen, hbit24]
  case isFalse hbit24 =>
    split
    case isTrue hbit4 =>
      split <;> rename_i hl <;> refine keepsRow_of_agrees (looked := 0xffffffff) rfl rfl ?_ <;>
        simp [cpOperandAt, Agrees, hc, hopen, hbit24, toNat_bits_one, toNat_bits_four, hbit4, hl]
    case isFalse hbit4 =>
      refine keepsRow_of_agrees (looked := 0xffffffff) rfl rfl ?_
      simp [cdpOperandAt, Agrees, hc, hopen, hbit24, toNat_bits_one, toNat_bits_four, hbit4]

theorem keepsRow_branch (hc : (bits w 28 4).toNat = c.code) (hform : (bits w 25 3).toNat = 5) :
    KeepsRow w (if bit w 24 then .bl c (bits w 0 24) else .b c (bits w 0 24)) := by
  have hopen := toNat_bits_opening hform
  split <;> rename_i hlink <;> refine keepsRow_of_agrees (looked := 0xffffffff) rfl rfl ?_ <;>
    simp [Agrees, hc, hopen, hlink]

theorem keepsRow_decodeConditional (hc : (bits w 28 4).toNat = c.code) : KeepsRow w (decodeConditional c w) := by
  unfold decodeConditional
  split
  case h_1 hform => exact keepsRow_decodeDataProcessing hc hform
  case h_2 hform => exact keepsRow_decodeImmediate hc hform
  case h_3 hform => exact keepsRow_decodeLoadStore hc hform
  case h_4 hform =>
    refine keepsRow_of_agrees (looked := 0xffffffef) rfl rfl ?_
    simp +decide [packShift, shiftOperandAt, Agrees, hc, hform, toNat_bits_one, toNat_bits_four, code_ofCode_bits, fits_zero]
  case h_5 hform => exact keepsRow_decodeMultiple hc hform
  case h_6 hform => exact keepsRow_branch hc hform
  case h_7 hform =>
    refine keepsRow_of_agrees (looked := 0xffffffff) rfl rfl ?_
    simp [Agrees, hc, hform, toNat_bits_one, toNat_bits_four]
  case h_8 =>
    have hform : (bits w 25 3).toNat = 7 := by
      have := (bits w 25 3).isLt
      simp only [imp_false] at *
      omega
    exact keepsRow_decodeCoprocessor hc hform

end

theorem code_of_ofCode_eq_some {n : Nat} {c : Cond} (h : Cond.ofCode n = some c) : n = c.code := by
  unfold Cond.ofCode at h
  split at h <;> cases h <;> rfl

theorem eq_fifteen_of_ofCode_eq_none {n : Nat} (hn : n < 16) (h : Cond.ofCode n = none) : n = 15 := by
  unfold Cond.ofCode at h
  split at h <;> cases h
  simp only [imp_false] at *
  omega

theorem keepsRow_decode (w : Word) : KeepsRow w (decode w) := by
  unfold decode
  split
  case h_1 c h => exact keepsRow_decodeConditional (code_of_ofCode_eq_some h)
  case h_2 h =>
    have hnv := eq_fifteen_of_ofCode_eq_none (bits w 28 4).isLt h
    split
    case isTrue hform =>
      have hblx : (bits w 25 7).toNat = 125 := by
        simp only [toNat_bits] at *
        omega
      refine keepsRow_of_agrees (looked := 0xffffffff) rfl rfl ?_
      simp [Agrees, hblx, toNat_bits_one]
    case isFalse =>
      refine keepsRow_of_agrees (looked := 0xf0000000) rfl rfl ?_
      simp +decide [Agrees, hnv, fits_zero]

/-! ## Rows against each other -/

/-- Two rows that ask for different values of one bit. -/
def OpcodeRow.disjoint (r q : OpcodeRow) : Bool :=
  (r.value ^^^ q.value) &&& r.mask &&& q.mask != 0

theorem OpcodeRow.accepts_eq_false_of_disjoint {r q : OpcodeRow} {w : Word} (h : r.disjoint q = true)
    (hr : r.accepts w = true) : q.accepts w = false := by
  rw [Bool.eq_false_iff]
  intro hq
  simp only [accepts, beq_iff_eq] at hr hq
  simp only [disjoint, bne_iff_ne] at h
  apply h
  rw [← hr, ← hq]
  apply BitVec.eq_of_getLsbD_eq
  intro j hj
  rw [show (0 : Word) = 0#32 from rfl, BitVec.getLsbD_zero]
  simp only [BitVec.getLsbD_and, BitVec.getLsbD_xor]
  cases w.getLsbD j <;> cases r.mask.getLsbD j <;> cases q.mask.getLsbD j <;> rfl

/-- The rows but the two of the NV space. -/
def conditionalRows : List OpcodeRow := opcodeRows.drop 2

theorem conditionalRows_disjoint : conditionalRows.Pairwise (·.disjoint · = true) := by
  decide

/-- In a list of disjoint rows the first that accepts a word is the only one. -/
theorem find?_eq_some_of_disjoint {l : List OpcodeRow} {r : OpcodeRow} {w : Word} (hl : l.Pairwise (·.disjoint · = true))
    (hr : r ∈ l) (ha : r.accepts w = true) : l.find? (·.accepts w) = some r := by
  obtain ⟨before, after, rfl⟩ := List.append_of_mem hr
  rw [List.find?_eq_some_iff_append]
  refine ⟨ha, before, after, rfl, fun q hq => ?_⟩
  have hqr := (List.pairwise_append.1 hl).2.2 q hq r (by simp)
  rw [Bool.not_eq_true']
  exact Bool.eq_false_of_not_eq_true fun hqa => by simp [OpcodeRow.accepts_eq_false_of_disjoint hqr hqa] at ha

/-! ## Every encoding is accepted by its row -/

theorem tableRow_mem (i : Instr) : i.tableRow ∈ opcodeRows := by
  obtain ⟨h1, h55⟩ := i.row_bounds
  have hlt : i.row - 1 < opcodeRows.length := by
    rw [show opcodeRows.length = 55 from rfl]
    omega
  rw [Instr.tableRow, List.getD_eq_getElem _ _ hlt]
  exact List.getElem_mem hlt

/-- A row's value lies in its mask, and its mask in the bits it looks at. -/
theorem opcodeRows_masks : ∀ r ∈ opcodeRows, r.value &&& r.mask = r.value ∧ r.looked &&& r.mask = r.mask := by
  decide

theorem accepts_encode_of_agrees {i : Instr} {l : List (Nat × Nat)} (he : encode i = pack l)
    (h : Agrees i.tableRow.value i.tableRow.mask l 32) : i.tableRow.accepts (encode i) = true := by
  rw [OpcodeRow.accepts, he, pack_and_of_agrees h, (opcodeRows_masks _ (tableRow_mem i)).1, beq_self_eq_true]

theorem tableRow_accepts_encode (i : Instr) : i.tableRow.accepts (encode i) = true := by
  cases i <;> refine accepts_encode_of_agrees rfl ?_
  case blx | undefinedNv | dpRegisterShift | multiplyExtendedSpace | mrs | msrReg | msrImm | dpImmediateEmptySlot =>
    simp +decide [Instr.tableRow, Instr.row, opcodeRows, opcodeRowsEscapes, packImm, Agrees, fits_bool, fits_toNat,
      fits_reg, fits_cond, fits_kind, fits_zero, fits_fifteen]
  case andImm | eorImm | subImm | rsbImm | addImm | adcImm | sbcImm | rscImm | orrImm | movImm | bicImm | mvnImm |
      tstImm | teqImm | cmpImm | cmnImm =>
    simp +decide [Instr.tableRow, Instr.row, opcodeRows, opcodeRowsEscapes, opcodeRowsDataProcessing, packImm, Agrees,
      fits_bool, fits_toNat, fits_reg, fits_cond]
  case andShift | eorShift | subShift | rsbShift | addShift | adcShift | sbcShift | rscShift | orrShift | movShift |
      bicShift | mvnShift | tstShift | teqShift | cmpShift | cmnShift =>
    simp +decide [Instr.tableRow, Instr.row, opcodeRows, opcodeRowsEscapes, opcodeRowsDataProcessing, packShift, Agrees,
      fits_bool, fits_toNat, fits_reg, fits_cond, fits_kind]
  case ldr | str | ldrb | strb | lsRegisterOffset | ldm | stm | lsmSBit | b | bl | ldcStc | cdp | mcr | mrc | swi =>
    simp +decide [Instr.tableRow, Instr.row, opcodeRows, opcodeRowsEscapes, opcodeRowsDataProcessing, opcodeRowsRest,
      packShift, Agrees, fits_bool, fits_toNat, fits_reg, fits_cond, fits_kind]

/-! ## The first row that matches -/

theorem tableRow_accepts_decode (w : Word) : (decode w).tableRow.accepts w = true := by
  have hkeep := keepsRow_decode w
  have henc := tableRow_accepts_encode (decode w)
  have hmask := (opcodeRows_masks _ (tableRow_mem (decode w))).2
  rw [KeepsRow] at hkeep
  simp only [OpcodeRow.accepts, beq_iff_eq] at henc ⊢
  rw [← henc, ← hmask, ← BitVec.and_assoc, ← BitVec.and_assoc, hkeep]

theorem tableRow_priority (i : Instr) : i.tableRow.priority = i.row := by
  cases i <;> rfl

/-- The row of BLX. -/
def blxRow : OpcodeRow := ⟨1, 0xfa000000#32, 0xfe000000#32, 0xffffffff#32⟩

/-- The row of the other NV words. -/
def nvRow : OpcodeRow := ⟨2, 0xf0000000#32, 0xf0000000#32, 0xf0000000#32⟩

theorem opcodeRows_eq : opcodeRows = blxRow :: nvRow :: conditionalRows := rfl

theorem firstRow_eq_ite (w : Word) :
    firstRow w = if blxRow.accepts w then some blxRow else if nvRow.accepts w then some nvRow else
      conditionalRows.find? (·.accepts w) := by
  rw [firstRow, opcodeRows_eq, List.find?, List.find?]
  cases blxRow.accepts w <;> cases nvRow.accepts w <;> rfl

theorem decode_of_nv {w : Word} (h : (bits w 28 4).toNat = 15) :
    decode w = if (bits w 25 3).toNat = 5 then .blx (bit w 24) (bits w 0 24) else .undefinedNv := by
  have noCond : Cond.ofCode 15 = none := rfl
  simp only [decode, h, noCond]

theorem nv_of_nvRow_accepts {w : Word} (h : nvRow.accepts w = true) : (bits w 28 4).toNat = 15 := by
  have hbits := congrArg (bits · 28 4) (beq_iff_eq.1 h)
  have hmask : bits nvRow.mask 28 4 = BitVec.allOnes 4 := by decide
  simp only [bits_and, hmask, BitVec.and_allOnes] at hbits
  rw [hbits]
  rfl

theorem decode_of_blxRow_accepts {w : Word} (h : blxRow.accepts w = true) :
    decode w = .blx (bit w 24) (bits w 0 24) := by
  have hbits := congrArg (bits · 25 7) (beq_iff_eq.1 h)
  have hmask : bits blxRow.mask 25 7 = BitVec.allOnes 7 := by decide
  simp only [bits_and, hmask, BitVec.and_allOnes] at hbits
  have htop : (bits w 25 7).toNat = 125 := by rw [hbits]; rfl
  have hnv : (bits w 28 4).toNat = 15 ∧ (bits w 25 3).toNat = 5 := by
    simp only [toNat_bits] at *
    omega
  rw [decode_of_nv hnv.1, if_pos hnv.2]

/-- The first matching row is the row of the decoded instruction: the two NV rows by their order, the others because they are
disjoint from each other. -/
theorem firstRow_eq (w : Word) : firstRow w = some (decode w).tableRow := by
  have haccepts := tableRow_accepts_decode w
  have hmem := tableRow_mem (decode w)
  rw [firstRow_eq_ite]
  split
  case isTrue hblx =>
    rw [decode_of_blxRow_accepts hblx]
    rfl
  case isFalse hblx =>
    split
    case isTrue hnv =>
      rw [decode_of_nv (nv_of_nvRow_accepts hnv)] at haccepts ⊢
      by_cases hform : (bits w 25 3).toNat = 5
      · rw [if_pos hform] at haccepts
        exact absurd haccepts hblx
      · rw [if_neg hform]
        rfl
    case isFalse hnv =>
      rw [opcodeRows_eq, List.mem_cons, List.mem_cons] at hmem
      obtain h | h | h := hmem
      · exact absurd (h ▸ haccepts) hblx
      · exact absurd (h ▸ haccepts) hnv
      · exact find?_eq_some_of_disjoint conditionalRows_disjoint h haccepts

/-! ## The obligations -/

/-- Settles O2: the first matching row is the decoded instruction's own, whose priority numbers it. -/
theorem decodeIsFirstMatchingRow : Obligations.DecodeIsFirstMatchingRow := by
  unfold Obligations.DecodeIsFirstMatchingRow
  exact fun w => ⟨_, firstRow_eq w, tableRow_priority _⟩

/-- Settles O3: the word's row is the decoded instruction's, and each branch of the decode tree keeps what that row looks at. -/
theorem encodeKeepsLookedAtBits : Obligations.EncodeKeepsLookedAtBits := by
  unfold Obligations.EncodeKeepsLookedAtBits
  intro w r hr
  obtain rfl : (decode w).tableRow = r := Option.some.inj ((firstRow_eq w).symm.trans hr)
  exact keepsRow_decode w

end Sys2Proof
end

section
/-! What every instruction and every step keeps: the configuration, the registered ids, the stop status and the halt input,
the well-formedness of the state, RAM and the coprocessor registers but for their writers (R36 to R47, R63, R79). -/
namespace Sys2Proof.Machine

/-! ## The fields of a state after bus accesses -/

section
variable {s u : State}

theorem ReadsOnly.regs (h : ReadsOnly s u) : u.regs = s.regs := by rw [h.frame]
theorem ReadsOnly.jumped (h : ReadsOnly s u) : u.jumped = s.jumped := by rw [h.frame]
theorem ReadsOnly.cpsr (h : ReadsOnly s u) : u.cpsr = s.cpsr := by rw [h.frame]
theorem ReadsOnly.spsr (h : ReadsOnly s u) : u.spsr = s.spsr := by rw [h.frame]
theorem ReadsOnly.coproc (h : ReadsOnly s u) : u.coproc = s.coproc := by rw [h.frame]
theorem ReadsOnly.mem (h : ReadsOnly s u) : u.mem = s.mem := by rw [h.frame]
theorem ReadsOnly.stop (h : ReadsOnly s u) : u.stop = s.stop := by rw [h.frame]
theorem ReadsOnly.haltReq (h : ReadsOnly s u) : u.haltReq = s.haltReq := by rw [h.frame]
theorem ReadsOnly.cfg (h : ReadsOnly s u) : u.cfg = s.cfg := by rw [h.frame]

theorem WritesBus.regs (h : WritesBus s u) : u.regs = s.regs := by rw [h.frame]
theorem WritesBus.jumped (h : WritesBus s u) : u.jumped = s.jumped := by rw [h.frame]
theorem WritesBus.cpsr (h : WritesBus s u) : u.cpsr = s.cpsr := by rw [h.frame]
theorem WritesBus.spsr (h : WritesBus s u) : u.spsr = s.spsr := by rw [h.frame]
theorem WritesBus.coproc (h : WritesBus s u) : u.coproc = s.coproc := by rw [h.frame]
theorem WritesBus.stop (h : WritesBus s u) : u.stop = s.stop := by rw [h.frame]
theorem WritesBus.haltReq (h : WritesBus s u) : u.haltReq = s.haltReq := by rw [h.frame]
theorem WritesBus.cfg (h : WritesBus s u) : u.cfg = s.cfg := by rw [h.frame]

end

section
variable {list : BitVec 16} {s : State} {l : Loaded}

theorem LoadsList.jumped (h : LoadsList list s l) : l.state.jumped = s.jumped := by rw [h.frame]
theorem LoadsList.cpsr (h : LoadsList list s l) : l.state.cpsr = s.cpsr := by rw [h.frame]
theorem LoadsList.spsr (h : LoadsList list s l) : l.state.spsr = s.spsr := by rw [h.frame]
theorem LoadsList.coproc (h : LoadsList list s l) : l.state.coproc = s.coproc := by rw [h.frame]
theorem LoadsList.mem (h : LoadsList list s l) : l.state.mem = s.mem := by rw [h.frame]
theorem LoadsList.stop (h : LoadsList list s l) : l.state.stop = s.stop := by rw [h.frame]
theorem LoadsList.haltReq (h : LoadsList list s l) : l.state.haltReq = s.haltReq := by rw [h.frame]
theorem LoadsList.cfg (h : LoadsList list s l) : l.state.cfg = s.cfg := by rw [h.frame]

end

/-! ## The end of LDM (R221) -/

/-- The end of an LDM writes registers, jumped and CPSR only. -/
theorem finishLoad_frame (m : LsmOperand) (wb : Word) (l : Loaded) :
    finishLoad m wb l = { l.state with
        regs := (finishLoad m wb l).regs
        jumped := (finishLoad m wb l).jumped
        cpsr := (finishLoad m wb l).cpsr } := by
  simp only [finishLoad, multipleUpdate]
  split <;> split <;> rfl

section
variable (m : LsmOperand) (wb : Word) (l : Loaded)

@[simp] theorem finishLoad_spsr : (finishLoad m wb l).spsr = l.state.spsr := by rw [finishLoad_frame]
@[simp] theorem finishLoad_coproc : (finishLoad m wb l).coproc = l.state.coproc := by rw [finishLoad_frame]
@[simp] theorem finishLoad_mem : (finishLoad m wb l).mem = l.state.mem := by rw [finishLoad_frame]
@[simp] theorem finishLoad_periph : (finishLoad m wb l).periph = l.state.periph := by rw [finishLoad_frame]
@[simp] theorem finishLoad_stop : (finishLoad m wb l).stop = l.state.stop := by rw [finishLoad_frame]
@[simp] theorem finishLoad_haltReq : (finishLoad m wb l).haltReq = l.state.haltReq := by rw [finishLoad_frame]
@[simp] theorem finishLoad_cfg : (finishLoad m wb l).cfg = l.state.cfg := by rw [finishLoad_frame]

end

/-! ## Coprocessor banks (R40, R43, R252) -/

/-- `t` is `s`, or `s` with the bank of one slot replaced by one with the same ids. -/
def KeepsIds (s t : State) : Prop :=
  t = s ∨ ∃ cp b b', s.coproc.get cp = some b ∧ Bank.ids b' = Bank.ids b ∧ t = setBank cp b' s

theorem setCReg_keepsIds (cp : Fin 16) (id : BitVec 16) (v : Word) (s : State) : KeepsIds s (setCReg cp id v s) := by
  simp only [setCReg]
  split
  case h_1 => exact .inl rfl
  case h_2 b hb => exact .inr ⟨cp, b, _, hb, bankSet_ids b id v, rfl⟩

theorem cdpEffect_keepsIds (d : CdpOperand) (s : State) : KeepsIds s (cdpEffect d s) := by
  simp only [cdpEffect]
  split
  case h_1 => exact .inl rfl
  case h_2 b hb => exact .inr ⟨d.cp, b, _, hb, cdpBank_ids d s b, rfl⟩

theorem KeepsIds.registeredIds {s t : State} (h : KeepsIds s t) : registeredIds t = registeredIds s := by
  obtain rfl | ⟨cp, b, b', hb, hids, rfl⟩ := h
  · rfl
  apply List.ext_getElem (by simp [Machine.registeredIds])
  intro k h1 h2
  by_cases hk : cp.val = k
  · subst hk
    have hslot : s.coproc[cp.val] = some b := hb
    simp [Machine.registeredIds, hslot, hids]
  · simp [Machine.registeredIds, Vector.getElem_set_ne _ _ hk]

theorem KeepsIds.coprocWf {s t : State} (h : KeepsIds s t) (hs : coprocWf s.coproc = true) :
    coprocWf t.coproc = true := by
  obtain rfl | ⟨cp, b, b', hb, hids, rfl⟩ := h
  · exact hs
  · exact coprocWf_set cp.isLt hs ((Bank.wf_congr hids).trans (coprocWf_get hs hb))

/-- Equal slots register equal ids. -/
theorem registeredIds_congr {s t : State} (h : t.coproc = s.coproc) : registeredIds t = registeredIds s := by
  rw [registeredIds, registeredIds, h]

/-! ## What an instruction keeps -/

theorem Effect.keeps {i : Instr} {s t : State} (h : Effect i s t) :
    t.cfg = s.cfg ∧ t.stop = s.stop ∧ t.haltReq = s.haltReq := by
  cases h
  case ldr h | ldrb h => simp [h.cfg, h.stop, h.haltReq]
  case str h | strb h | stm h => simp [h.cfg, h.stop, h.haltReq]
  case ldm h => simp [h.cfg, h.stop, h.haltReq]
  all_goals simp

/-- Only CDP and MCR can change a coprocessor slot. -/
theorem Effect.coproc {i : Instr} {s t : State} (h : Effect i s t) :
    t.coproc = s.coproc ∨ (∃ c d, i = .cdp c d ∧ t = cdpEffect d s) ∨
      ∃ c d v, i = .mcr c d ∧ t = setCReg d.cp (cpId d) v s := by
  cases h
  case cdp c d => exact .inr (.inl ⟨c, d, rfl, rfl⟩)
  case mcr c d v => exact .inr (.inr ⟨c, d, v, rfl, rfl⟩)
  case ldr h | ldrb h => simp [h.coproc]
  case str h | strb h | stm h => simp [h.coproc]
  case ldm h => simp [h.coproc]
  all_goals simp

theorem Effect.registeredIds {i : Instr} {s t : State} (h : Effect i s t) : registeredIds t = registeredIds s := by
  obtain h | ⟨c, d, -, rfl⟩ | ⟨c, d, v, -, rfl⟩ := h.coproc
  · exact registeredIds_congr h
  · exact (cdpEffect_keepsIds d s).registeredIds
  · exact (setCReg_keepsIds ..).registeredIds

theorem Effect.coprocWf {i : Instr} {s t : State} (h : Effect i s t) (hs : coprocWf s.coproc = true) :
    coprocWf t.coproc = true := by
  obtain h | ⟨c, d, -, rfl⟩ | ⟨c, d, v, -, rfl⟩ := h.coproc
  · rwa [h]
  · exact (cdpEffect_keepsIds d s).coprocWf hs
  · exact (setCReg_keepsIds ..).coprocWf hs

/-- Memory and the states of the other devices stay in canonical form. -/
theorem Effect.cellsWf {i : Instr} {s t : State} (h : Effect i s t) (hm : Memory.wf s.mem = true)
    (hp : cellsWf periphDefault s.periph = true) : Memory.wf t.mem = true ∧ cellsWf periphDefault t.periph = true := by
  cases h
  case ldr h | ldrb h => simpa [h.mem] using ⟨hm, h.wf hp⟩
  case str h | strb h | stm h => simpa using h.wf hm hp
  case ldm h => simpa [h.mem] using ⟨hm, h.wf hp⟩
  all_goals simpa using ⟨hm, hp⟩

theorem Effect.wf {i : Instr} {s t : State} (h : Effect i s t) (hs : WfState s) : WfState t := by
  obtain ⟨hm, hp, hcfg, hcp⟩ := hs
  obtain ⟨hm', hp'⟩ := h.cellsWf hm hp
  exact ⟨hm', hp', h.keeps.1 ▸ hcfg, h.coprocWf hcp⟩

/-! ## What a step keeps -/

/-- A step that answers a next state: nothing, the halt, or an instruction after `nextPC` and the fetch (R320). -/
theorem step_next {s t : State} (h : step s = .next t) :
    t = s ∨ t = { s with stop := .halted } ∨ ∃ w u, ReadsOnly (nextPC s) u ∧ Effect (decode w) u t := by
  simp only [step] at h
  split at h
  case h_1 =>
    split at h
    · cases h
      exact .inr (.inl rfl)
    · simp only [stepRunning] at h
      split at h
      · cases h
      · split at h
        · cases h
        · rename_i w u hfetch
          exact .inr (.inr ⟨w, u, readWord_readsOnly hfetch, exec_effect h⟩)
  all_goals
    cases h
    exact .inl rfl

/-- `nextPC` and the fetch keep the well-formedness. -/
theorem ReadsOnly.wfState {s u : State} (h : ReadsOnly (nextPC s) u) (hs : WfState s) : WfState u := by
  obtain ⟨hm, hp, hcfg, hcp⟩ := hs
  refine ⟨?_, h.wf hp, ?_, ?_⟩
  · rwa [h.mem]
  · rwa [h.cfg]
  · rwa [h.coproc]

/-- Settles O56: the fetch changes device states only, and every effect of an instruction keeps each part of the invariant. -/
theorem stepKeepsTheInvariant : Obligations.StepKeepsTheInvariant := by
  unfold Obligations.StepKeepsTheInvariant
  intro s t hs hstep
  obtain rfl | rfl | ⟨w, u, hread, heff⟩ := step_next hstep
  · exact hs
  · exact hs
  · exact heff.wf (hread.wfState hs)

/-- Settles O55: no effect of an instruction touches the configuration, the registered ids or the halt input. -/
theorem stepKeepsConfigurationAndIds : Obligations.StepKeepsConfigurationAndIds := by
  unfold Obligations.StepKeepsConfigurationAndIds
  intro s t hstep
  obtain rfl | rfl | ⟨w, u, hread, heff⟩ := step_next hstep
  · exact ⟨rfl, rfl, rfl⟩
  · exact ⟨rfl, rfl, rfl⟩
  · obtain ⟨hcfg, -, hhalt⟩ := heff.keeps
    exact ⟨hcfg.trans hread.cfg, heff.registeredIds.trans (registeredIds_congr hread.coproc),
      hhalt.trans hread.haltReq⟩

/-- Settles O57: memory, device states and banks are empty, and the table is one RAM region. -/
theorem resetMeetsTheInvariant : Obligations.ResetMeetsTheInvariant := by
  unfold Obligations.ResetMeetsTheInvariant WfState
  decide

end Sys2Proof.Machine
end

section
/-! Which instructions write which part of the state: the status registers (R36, R39, R318), the PC and jumped (R27, R245), RAM
and the coprocessor registers (R203, R252). -/
namespace Sys2Proof.Machine

/-! ## Bits of a status register after a write -/

theorem withT_false_getLsbD (w : Word) (k : Nat) : (withT w false).getLsbD k = (w.getLsbD k && decide (k ≠ 5)) := by
  have tMask : (0x20 : Word) = BitVec.twoPow 32 5 := by decide
  rw [withT, if_neg (by decide), BitVec.getLsbD_and, BitVec.getLsbD_not, tMask, BitVec.getLsbD_twoPow]
  by_cases hk : k < 32
  · simp [hk, eq_comm]
  · simp [BitVec.getLsbD_of_ge _ _ (Nat.le_of_not_lt hk)]

/-- A write of T keeps every other bit (R33). -/
theorem withT_getLsbD_of_ne (w : Word) (t : Bool) {k : Nat} (hk : k ≠ 5) : (withT w t).getLsbD k = w.getLsbD k := by
  cases t
  · simp [withT_false_getLsbD, hk]
  · simp [withT_true_getLsbD, hk]

theorem flagT_withT (w : Word) (t : Bool) : flagT (withT w t) = t := by
  cases t
  · rw [flagT, withT_false_getLsbD, decide_eq_false (not_not.2 rfl), Bool.and_false]
  · rw [flagT, withT_true_getLsbD, decide_eq_true rfl, Bool.or_true]

/-- The byte lanes of an MSR field mask, bit by bit (R187). -/
theorem fieldMask_getLsbD (m : BitVec 4) {k : Nat} (hk : k < 32) : (fieldMask m).getLsbD k = m.getLsbD (k / 8) := by
  have allMasks : ∀ (m : BitVec 4), ∀ i < 32, (fieldMask m).getLsbD i = m.getLsbD (i / 8) := by decide
  exact allMasks m k hk

/-- The mode is the five low bits (R30). -/
theorem fieldM_congr {w w' : Word} (h : ∀ k, k < 5 → w.getLsbD k = w'.getLsbD k) : fieldM w = fieldM w' := by
  apply BitVec.eq_of_getLsbD_eq
  intro k hk
  simp only [fieldM, BitVec.getLsbD_extractLsb', Nat.zero_add, h k hk]

theorem fieldM_withT (w : Word) (t : Bool) : fieldM (withT w t) = fieldM w :=
  fieldM_congr fun _ _ => withT_getLsbD_of_ne w t (by omega)

theorem fieldM_withTop (w : Word) (f : BitVec 4) : fieldM (withTop w f) = fieldM w :=
  fieldM_congr fun k _ => by rw [withTop_getLsbD w f (by omega), if_pos (by omega)]

theorem fieldM_setFlags (w r : Word) (k : FlagClass) : fieldM (setFlags w r k) = fieldM w := by
  cases k <;> exact fieldM_withTop ..

/-- An MSR without the c field keeps the mode. -/
theorem fieldM_mergeMasked {w v : Word} {mask : BitVec 4} (h : mask.getLsbD 0 = false) :
    fieldM (mergeMasked w v (fieldMask mask)) = fieldM w :=
  fieldM_congr fun k hk => by
    rw [mergeMasked_getLsbD _ _ _ (by omega), fieldMask_getLsbD _ (by omega), show k / 8 = 0 by omega, h]
    rfl

/-! ## Data processing among the writers -/

theorem mayWrite_of_dpInfo {i : Instr} {sf w : Bool} {rd : Reg} (h : dpInfo i = some (sf, w, rd)) :
    mayWriteCpsr i = sf ∧ mayWriteMode i = (sf && decide ((if w then some rd else none) = some Reg.pc)) ∧
      mayJump i = decide ((if w then some rd else none) = some Reg.pc) := by
  cases i <;> cases h <;> exact ⟨rfl, rfl, rfl⟩

/-! ## Status registers -/

theorem Effect.spsr {i : Instr} {s t : State} (h : Effect i s t) :
    t.spsr = s.spsr ∨ ∃ c mask, (∃ rm, i = .msrReg c true mask rm) ∨ ∃ op, i = .msrImm c true mask op := by
  cases h
  case msrReg c r mask rm v =>
    cases r
    · exact .inl rfl
    · exact .inr ⟨c, mask, .inl ⟨rm, rfl⟩⟩
  case msrImm c r mask op v =>
    cases r
    · exact .inl rfl
    · exact .inr ⟨c, mask, .inr ⟨op, rfl⟩⟩
  case ldr h | ldrb h => simp [h.spsr]
  case str h | strb h | stm h => simp [h.spsr]
  case ldm h => simp [h.spsr]
  all_goals simp

theorem finishLoad_cpsr (m : LsmOperand) (wb : Word) (l : Loaded) :
    (finishLoad m wb l).cpsr = (l.pcValue.elim l.state.cpsr fun v => withT l.state.cpsr (v.getLsbD 0)) := by
  simp only [finishLoad]
  split <;> rename_i h <;> simp [h]

theorem writeLoaded_cpsr (rd : Reg) (v : Word) (s : State) :
    (writeLoaded rd v s).cpsr = if rd = Reg.pc then withT s.cpsr (v.getLsbD 0) else s.cpsr := by
  rw [writeLoaded_frame]

/-- CPSR, and of CPSR the mode, changes only by the listed writers (R39, R318). -/
theorem Effect.cpsr {i : Instr} {s t : State} (h : Effect i s t) :
    (t.cpsr = s.cpsr ∨ mayWriteCpsr i = true) ∧ (fieldM t.cpsr = fieldM s.cpsr ∨ mayWriteMode i = true) := by
  cases h
  case dp sf w rd r k hinfo =>
    obtain ⟨hcpsr, hmode, -⟩ := mayWrite_of_dpInfo hinfo
    rw [hcpsr, hmode, writeBack_cpsr]
    cases sf
    · simp
    · by_cases hrestore : w = true ∧ rd = Reg.pc
      · simp [hrestore]
      · simp [hrestore, fieldM_setFlags]
  case msrReg r mask rm v | msrImm r mask op v =>
    cases r
    · refine ⟨.inr rfl, ?_⟩
      cases hmask : mask.getLsbD 0
      · exact .inl (fieldM_mergeMasked hmask)
      · exact .inr hmask
    · exact ⟨.inl rfl, .inl rfl⟩
  case ldr m u x hread =>
    rw [writeLoaded_cpsr, baseUpdate_cpsr, hread.cpsr]
    by_cases hrd : m.rd = Reg.pc
    · simp [hrd, mayWriteCpsr, fieldM_withT]
    · simp [hrd]
  case ldm m l wb hload =>
    rw [finishLoad_cpsr, hload.cpsr]
    cases hv : l.pcValue with
    | none => exact ⟨.inl rfl, .inl rfl⟩
    | some v => exact ⟨.inr (by rw [mayWriteCpsr, ← hload.pcValue, hv]; rfl), .inl (fieldM_withT ..)⟩
  case blx => exact ⟨.inr rfl, .inl (fieldM_withT ..)⟩
  case mrcFlags hrd => exact ⟨.inr (decide_eq_true hrd), .inl (fieldM_withTop ..)⟩
  case ldrb hread => simp [hread.cpsr]
  case str hwrite | strb hwrite | stm hwrite => simp [hwrite.cpsr]
  all_goals simp

/-- Settles O52: SPSR, CPSR and the mode, each by its lemma over the effects of an instruction. -/
theorem onlyListedInstructionsWriteStatusRegisters : Obligations.OnlyListedInstructionsWriteStatusRegisters := by
  unfold Obligations.OnlyListedInstructionsWriteStatusRegisters
  intro i s t hexec
  have heff := exec_effect hexec
  obtain ⟨hcpsr, hmode⟩ := heff.cpsr
  exact ⟨heff.spsr.resolve_left, hcpsr.resolve_left, hmode.resolve_left⟩

/-! ## The PC and jumped -/

/-- `t` has the stored PC and the jumped flag of `s`. -/
def SamePc (s t : State) : Prop :=
  t.jumped = s.jumped ∧ t.regs.get Reg.pc = s.regs.get Reg.pc

theorem SamePc.trans {s t u : State} (h : SamePc s t) (h' : SamePc t u) : SamePc s u :=
  ⟨h'.1.trans h.1, h'.2.trans h.2⟩

theorem writeReg_samePc (s : State) {i : Reg} (v : Word) (hi : i ≠ Reg.pc) : SamePc s (s.writeReg i v) :=
  ⟨by simp [hi], by rw [writeReg_get, if_neg (Ne.symm hi)]⟩

theorem writeReg_jumped_of_pc (s : State) {i : Reg} (v : Word) (hi : i = Reg.pc) : (s.writeReg i v).jumped = true := by
  simp [hi]

theorem ReadsOnly.samePc {s u : State} (h : ReadsOnly s u) : SamePc s u :=
  ⟨h.jumped, by rw [h.regs]⟩

theorem WritesBus.samePc {s u : State} (h : WritesBus s u) : SamePc s u :=
  ⟨h.jumped, by rw [h.regs]⟩

theorem LoadsList.samePc {list : BitVec 16} {s : State} {l : Loaded} (h : LoadsList list s l) : SamePc s l.state :=
  ⟨h.jumped, h.pc⟩

/-- The base write-back is that of R200. -/
theorem address_writeback_iff (m : LsOperand) (s : State) : (address m s).writeback = true ↔ WritesBack m := by
  rw [address_writeback]
  cases hp : m.p <;> simp [WritesBack, hp]

theorem baseUpdate_pc (m : LsOperand) (s u : State) :
    SamePc u (baseUpdate m (address m s) u) ∨
      ((baseUpdate m (address m s) u).jumped = true ∧ WritesBack m ∧ m.rn = Reg.pc) := by
  simp only [baseUpdate]
  split
  case isTrue hw =>
    by_cases hrn : m.rn = Reg.pc
    · exact .inr ⟨writeReg_jumped_of_pc u _ hrn, (address_writeback_iff m s).1 hw, hrn⟩
    · exact .inl (writeReg_samePc u _ hrn)
  case isFalse => exact .inl ⟨rfl, rfl⟩

theorem multipleUpdate_pc (m : LsmOperand) (wb : Word) (u : State) :
    SamePc u (multipleUpdate m wb u) ∨
      ((multipleUpdate m wb u).jumped = true ∧ (m.w && decide (m.rn = Reg.pc)) = true) := by
  simp only [multipleUpdate]
  split
  case isTrue hw =>
    by_cases hrn : m.rn = Reg.pc
    · exact .inr ⟨writeReg_jumped_of_pc u _ hrn, by simp [hw, hrn]⟩
    · exact .inl (writeReg_samePc u _ hrn)
  case isFalse => exact .inl ⟨rfl, rfl⟩

theorem mayJump_ldr (c : Cond) (m : LsOperand) :
    mayJump (.ldr c m) = decide (m.rd = Reg.pc ∨ (WritesBack m ∧ m.rn = Reg.pc)) := rfl

theorem mayJump_ldrb (c : Cond) (m : LsOperand) :
    mayJump (.ldrb c m) = decide (m.rd = Reg.pc ∨ (WritesBack m ∧ m.rn = Reg.pc)) := rfl

theorem mayJump_ldm (c : Cond) (m : LsmOperand) :
    mayJump (.ldm c m) = (m.list.getLsbD 15 || (m.w && decide (m.rn = Reg.pc))) := rfl

/-- An instruction leaves the PC and jumped alone, or it is a listed writer and sets jumped (R27, R245). -/
theorem Effect.pc {i : Instr} {s t : State} (h : Effect i s t) :
    SamePc s t ∨ (t.jumped = true ∧ mayJump i = true) := by
  cases h
  case dp sf w rd r k hinfo =>
    rw [(mayWrite_of_dpInfo hinfo).2.2, SamePc, writeBack_jumped, writeBack_get]
    cases w
    · simp
    · by_cases hrd : rd = Reg.pc
      · simp [hrd]
      · simp [hrd, Ne.symm hrd]
  case mrs c r rd v =>
    by_cases hrd : rd = Reg.pc
    · exact .inr ⟨writeReg_jumped_of_pc s v hrd, decide_eq_true hrd⟩
    · exact .inl (writeReg_samePc s v hrd)
  case mrc c d v hrd => exact .inl (writeReg_samePc s v hrd)
  case ldr m u x hread =>
    rw [mayJump_ldr, decide_eq_true_eq]
    by_cases hrd : m.rd = Reg.pc
    · exact .inr ⟨by simp [writeLoaded, hrd], .inl hrd⟩
    rw [writeLoaded, if_neg hrd]
    obtain hbase | ⟨hjump, hwb⟩ := baseUpdate_pc m s u
    · exact .inl ((hread.samePc.trans hbase).trans (writeReg_samePc _ x hrd))
    · exact .inr ⟨by simp [hjump], .inr hwb⟩
  case ldrb m u x hread =>
    rw [mayJump_ldrb, decide_eq_true_eq]
    by_cases hrd : m.rd = Reg.pc
    · exact .inr ⟨by simp [hrd], .inl hrd⟩
    obtain hbase | ⟨hjump, hwb⟩ := baseUpdate_pc m s u
    · exact .inl ((hread.samePc.trans hbase).trans (writeReg_samePc _ x hrd))
    · exact .inr ⟨by simp [hjump], .inr hwb⟩
  case str m u hwrite | strb m u hwrite =>
    obtain hbase | ⟨hjump, hwb⟩ := baseUpdate_pc m s u
    · exact .inl (hwrite.samePc.trans hbase)
    · exact .inr ⟨hjump, decide_eq_true hwb⟩
  case ldm m l wb hload =>
    have hlist := hload.pcValue
    rw [mayJump_ldm]
    cases hv : l.pcValue with
    | none =>
      simp only [finishLoad, hv]
      obtain hbase | ⟨hjump, hwb⟩ := multipleUpdate_pc m wb l.state
      · exact .inl (hload.samePc.trans hbase)
      · exact .inr ⟨hjump, by rw [hwb, Bool.or_true]⟩
    | some v =>
      rw [hv, Option.isSome_some] at hlist
      exact .inr ⟨by simp [finishLoad, hv], by rw [← hlist, Bool.true_or]⟩
  case stm m u wb hwrite =>
    obtain hbase | ⟨hjump, hwb⟩ := multipleUpdate_pc m wb u
    · exact .inl (hwrite.samePc.trans hbase)
    · exact .inr ⟨hjump, hwb⟩
  case b | bl => exact .inr ⟨branchBy_jumped_eq_true .., rfl⟩
  case blx v => exact .inr ⟨branchBy_jumped_eq_true v _, rfl⟩
  case undef hi =>
    refine .inr ⟨writeReg_jumped_of_pc s 4 rfl, ?_⟩
    obtain rfl | ⟨c, d, rfl⟩ | ⟨c, d, rfl⟩ | ⟨c, d, rfl⟩ := hi <;> rfl
  all_goals exact .inl ⟨by simp, by simp⟩

/-- Settles O53: an instruction that is no listed writer keeps the PC and jumped; a listed one sets jumped or keeps both. -/
theorem onlyListedInstructionsJump : Obligations.OnlyListedInstructionsJump := by
  unfold Obligations.OnlyListedInstructionsJump
  intro i s t hexec
  obtain ⟨hjumped, hpc⟩ | ⟨hjumped, hlisted⟩ := (exec_effect hexec).pc
  · exact ⟨hjumped.trans, fun h => absurd hpc h, fun h => absurd hpc h, fun h => absurd hjumped h⟩
  · exact ⟨fun _ => hjumped, fun _ => hjumped, fun _ => hlisted, fun _ => hlisted⟩

/-! ## RAM and the coprocessor registers -/

theorem Effect.mem {i : Instr} {s t : State} (h : Effect i s t) :
    t.mem = s.mem ∨ ∃ c, (∃ m, i = .str c m) ∨ (∃ m, i = .strb c m) ∨ ∃ m, i = .stm c m := by
  cases h
  case str c m _ _ => exact .inr ⟨c, .inl ⟨m, rfl⟩⟩
  case strb c m _ _ => exact .inr ⟨c, .inr (.inl ⟨m, rfl⟩)⟩
  case stm c m _ _ _ => exact .inr ⟨c, .inr (.inr ⟨m, rfl⟩)⟩
  case ldr h | ldrb h => simp [h.mem]
  case ldm h => simp [h.mem]
  all_goals simp

/-- R252: the default CDP_EFFECT is the identity. -/
theorem cdpEffect_of_identity (d : CdpOperand) {s : State} (h : s.cfg.cdp = .identity) : cdpEffect d s = s := by
  simp only [cdpEffect]
  split
  case h_1 => rfl
  case h_2 b hb =>
    have hslot : s.coproc[d.cp.val] = some b := hb
    simp [cdpBank, h, setBank, ← hslot]

/-- Settles O54: memory by `Effect.mem`; the slots by `Effect.coproc`, where the default CDP changes nothing. -/
theorem onlyStoresAndCoprocessorWrites : Obligations.OnlyStoresAndCoprocessorWrites := by
  unfold Obligations.OnlyStoresAndCoprocessorWrites
  intro i s t hexec
  have heff := exec_effect hexec
  obtain ⟨-, hstop, hhalt⟩ := heff.keeps
  refine ⟨?ram, ?slots, hstop, hhalt⟩
  case ram =>
    rintro ⟨a, ha⟩
    exact heff.mem.resolve_left fun hmem => ha (by rw [State.byteAt, State.byteAt, hmem])
  case slots =>
    intro hne
    obtain h | ⟨c, d, rfl, rfl⟩ | ⟨c, d, v, rfl, rfl⟩ := heff.coproc
    · exact absurd h hne
    · cases hcdp : s.cfg.cdp with
      | identity => exact absurd (by rw [cdpEffect_of_identity d hcdp]) hne
      | other => exact ⟨c, .inr ⟨d, rfl, rfl⟩⟩
    · exact ⟨c, .inl ⟨d, rfl⟩⟩

end Sys2Proof.Machine
end

section
/-! Conditions and shifter operands: which bits a condition reads (R140, R141), rotation bit by bit, and the shifts in exact
arithmetic (R150 to R155). -/
namespace Sys2Proof.Machine

/-! ## Conditions -/

/-- A condition reads N, Z, C and V only. -/
theorem condPassed_congr (c : Cond) {w w' : Word} (h : ∀ k, 28 ≤ k → w.getLsbD k = w'.getLsbD k) :
    condPassed c w = condPassed c w' := by
  have hN : flagN w = flagN w' := h 31 (by omega)
  have hZ : flagZ w = flagZ w' := h 30 (by omega)
  have hC : flagC w = flagC w' := h 29 (by omega)
  have hV : flagV w = flagV w' := h 28 (by omega)
  simp only [condPassed, hN, hZ, hC, hV]

/-- The condition of an odd code is the negation of the one before it. -/
theorem condPassed_odd {c d : Cond} (w : Word) (hc : c.code % 2 = 0) (hd : d.code = c.code + 1) :
    condPassed d w = !condPassed c w := by
  have hof : Cond.ofCode (c.code + 1) = some d := by rw [← hd, Cond.ofCode_code]
  cases c
  case ne | cc | pl | vc | ls | lt | le => exact absurd hc (by decide)
  case al => cases hof
  all_goals
    cases hof
    simp [condPassed, bne]

/-- Settles O19: the conditions read four bits, by name, and come in pairs. -/
theorem conditionsReadOnlyTheFlags : Obligations.ConditionsReadOnlyTheFlags := by
  unfold Obligations.ConditionsReadOnlyTheFlags
  refine ⟨fun c w w' h => condPassed_congr c h, fun w => ?table, fun c d w => condPassed_odd w⟩
  case table => exact ⟨rfl, rfl, rfl, rfl, rfl, rfl, rfl, rfl⟩

/-! ## Rotation -/

/-- Rotation moves bit `k + r`, modulo 32, to place `k` (R8). -/
theorem getLsbD_rotateRight_mod (v : Word) (r : Nat) {k : Nat} (hk : k < 32) :
    (v.rotateRight r).getLsbD k = v.getLsbD ((k + r) % 32) := by
  rw [BitVec.getLsbD_rotateRight]
  by_cases h : k < 32 - r % 32
  · rw [decide_eq_true h, cond_true]
    congr 1
    omega
  · rw [decide_eq_false h, cond_false, decide_eq_true hk, Bool.true_and]
    congr 1
    omega

theorem immOperand_sco (op : ImmOperand) (s : State) :
    (immOperand op s).sco = if op.rot = 0 then flagC s.cpsr else (immOperand op s).op2.getLsbD 31 := rfl

/-- Settles O20: the rotated byte bit by bit; the carry-out by the rotate field. -/
theorem immediateOperandRotates : Obligations.ImmediateOperandRotates := by
  unfold Obligations.ImmediateOperandRotates
  intro op s
  refine ⟨fun k hk => ?bits, fun h => ?kept, fun h => ?top⟩
  case bits =>
    have hmod : (k + 2 * op.rot.toNat) % 32 < 32 := Nat.mod_lt _ (by decide)
    exact (getLsbD_rotateRight_mod _ _ hk).trans (by simp [hmod])
  case kept => rw [immOperand_sco, if_pos h]
  case top => rw [immOperand_sco, if_neg h]

/-! ## Shifts in exact arithmetic -/

theorem toInt_sshiftRight_eq_div (m : Word) (n : Nat) : (m.sshiftRight n).toInt = m.toInt / 2 ^ n := by
  rw [BitVec.toInt_sshiftRight, Int.shiftRight_eq_div_pow]
  rfl

/-- The sign bit. -/
theorem getLsbD_31_eq (v : Word) : v.getLsbD 31 = decide (2 ^ 31 ≤ v.toNat) :=
  (BitVec.msb_eq_getLsbD_last v).symm.trans (BitVec.msb_eq_decide v)

/-- Thirty-two places to the right only the sign is left. -/
theorem toInt_signWord (m : Word) :
    (if m.getLsbD 31 then (0xffffffff : Word) else 0).toInt = m.toInt / 2 ^ 32 := by
  have hm := m.isLt
  have hsign := getLsbD_31_eq m
  have hint := BitVec.toInt_eq_toNat_cond m
  by_cases h : 2 ^ 31 ≤ m.toNat
  · rw [hsign, decide_eq_true h, if_pos rfl, show (0xffffffff : Word).toInt = -1 by decide]
    rw [if_neg (by omega)] at hint
    omega
  · rw [hsign, decide_eq_false h, if_neg (by decide), show (0 : Word).toInt = 0 by decide]
    rw [if_pos (by omega)] at hint
    omega

/-- RRX (R155): C comes in at the top, the others move down one place. -/
theorem shiftRor_zero_getLsbD (m : Word) (c : Bool) {k : Nat} (hk : k < 32) :
    (shiftRor m 0 c).op2.getLsbD k = if k = 31 then c else m.getLsbD (k + 1) := by
  rw [shiftRor, if_pos rfl]
  simp only [BitVec.getLsbD_or, BitVec.getLsbD_shiftLeft, BitVec.getLsbD_setWidth, BitVec.getLsbD_ofBool,
    BitVec.getLsbD_ushiftRight, hk, decide_true, Bool.true_and]
  by_cases h : k = 31
  · subst h
    simp
  · simp [h, show k < 31 by omega, Nat.add_comm 1 k]

theorem toNat_ne_zero {n : BitVec 5} (h : n ≠ 0) : n.toNat ≠ 0 := fun h0 => h (BitVec.eq_of_toNat_eq h0)

/-- Settles O21: form by form, amount 0 apart from the others. -/
theorem shiftOperandForms : Obligations.ShiftOperandForms := by
  unfold Obligations.ShiftOperandForms
  intro n rm s m out
  have hlsl : out .lsl = shiftLsl m n.toNat (flagC s.cpsr) := rfl
  have hlsr : out .lsr = shiftLsr m n.toNat (flagC s.cpsr) s.cfg.shiftZeroIs32 := rfl
  have hasr : out .asr = shiftAsr m n.toNat (flagC s.cpsr) s.cfg.shiftZeroIs32 := rfl
  have hror : out .ror = shiftRor m n.toNat (flagC s.cpsr) := rfl
  rw [hlsl, hlsr, hasr, hror]
  refine ⟨?lslZero, fun h => ?lsl, ?zeroIs32, ?zeroIsZero, fun h => ?lsr, fun h => ?asr, fun h => ?ror, ?rrx⟩
  case lslZero =>
    rintro rfl
    rfl
  case lsl =>
    rw [shiftLsl, if_neg (toNat_ne_zero h)]
    exact ⟨by rw [BitVec.toNat_shiftLeft, Nat.shiftLeft_eq], rfl⟩
  case zeroIs32 =>
    rintro rfl h32
    rw [h32]
    exact ⟨rfl, toInt_signWord m, rfl⟩
  case zeroIsZero =>
    rintro rfl h32
    rw [h32]
    exact ⟨rfl, rfl⟩
  case lsr =>
    rw [shiftLsr, if_neg (toNat_ne_zero h)]
    exact ⟨by rw [BitVec.toNat_ushiftRight, Nat.shiftRight_eq_div_pow], rfl⟩
  case asr =>
    rw [shiftAsr, if_neg (toNat_ne_zero h)]
    exact ⟨toInt_sshiftRight_eq_div m _, rfl⟩
  case ror =>
    rw [shiftRor, if_neg (toNat_ne_zero h)]
    exact ⟨fun k hk => getLsbD_rotateRight_mod m _ hk, rfl⟩
  case rrx =>
    rintro rfl
    exact ⟨shiftRor_zero_getLsbD m _ (k := 31) (by omega),
      fun k hk => (shiftRor_zero_getLsbD m _ (by omega)).trans (if_neg (by omega)), rfl⟩

end Sys2Proof.Machine
end

section
/-! What no instruction depends on: the low bits of CPSR (R316, R317) and DISASSEMBLY_MODE (R321). Two states that differ at most
in bits of CPSR below `n` and in DISASSEMBLY_MODE run alike; `n = 28` frees the mode field and all but the flags, `n = 0`
frees DISASSEMBLY_MODE alone. -/
namespace Sys2Proof.Machine

/-- `s` with another CPSR and another DISASSEMBLY_MODE. -/
def retune (w : Word) (on : Bool) (s : State) : State :=
  { s with cpsr := w, cfg := { s.cfg with disassembly := on } }

/-- `t` is `s` but for DISASSEMBLY_MODE, which is `on` in `t`, and bits of CPSR below `n`. -/
def Twin (n : Nat) (on : Bool) (s t : State) : Prop :=
  ∃ w, t = retune w on s ∧ ∀ k, n ≤ k → w.getLsbD k = s.cpsr.getLsbD k

/-- The same stop for the same reason, or next states that are twins. -/
def TwinResult (n : Nat) (on : Bool) : Result → Result → Prop
  | .next t, .next u => Twin n on t u
  | .fault e, .fault f => e = f
  | .refused q, .refused r => q = r
  | _, _ => False

/-! ## The bus sees neither -/

section
variable (w : Word) (on : Bool) (s : State)

theorem deviceRead_retune (r : Region) (off : Addr) :
    deviceRead r off (retune w on s) = ((deviceRead r off s).1, retune w on (deviceRead r off s).2) := by
  simp only [deviceRead]
  split <;> rfl

theorem deviceWrite_retune (r : Region) (off : Addr) (v : BitVec 64) :
    deviceWrite r off v (retune w on s) = retune w on (deviceWrite r off v s) := by
  simp only [deviceWrite]
  split <;> rfl

theorem addressMap_retune : (retune w on s).cfg.addressMap = s.cfg.addressMap := rfl

theorem busRead_retune (a : Addr) (d : Nat) :
    busRead a d (retune w on s) = (busRead a d s).map fun x => (x.1, retune w on x.2) := by
  simp only [busRead, addressMap_retune, deviceRead_retune]
  split
  · rfl
  · split
    · rfl
    · split <;> rfl

theorem busWrite_retune (a : Addr) (d : Nat) (v : BitVec 64) :
    busWrite a d v (retune w on s) = (busWrite a d v s).map (retune w on) := by
  simp only [busWrite, addressMap_retune, deviceRead_retune, deviceWrite_retune]
  split
  · rfl
  · split
    · rfl
    · split
      · rfl
      · split <;> rfl

theorem readWord_retune (a : Word) :
    readWord a (retune w on s) = (readWord a s).map fun x => (x.1, retune w on x.2) := by
  simp only [readWord, busRead_retune]
  cases busRead (a.setWidth 64) 32 s <;> rfl

theorem readByteBus_retune (a : Word) :
    readByteBus a (retune w on s) = (readByteBus a s).map fun x => (x.1, retune w on x.2) := by
  simp only [readByteBus, busRead_retune]
  cases busRead (a.setWidth 64) 8 s <;> rfl

theorem writeWord_retune (a v : Word) : writeWord a v (retune w on s) = (writeWord a v s).map (retune w on) :=
  busWrite_retune ..

theorem writeByteBus_retune (a : Word) (v : Byte) :
    writeByteBus a v (retune w on s) = (writeByteBus a v s).map (retune w on) :=
  busWrite_retune ..

/-- The transfers of an LDM with the state retuned. -/
def Loaded.retune (w : Word) (on : Bool) (l : Loaded) : Loaded :=
  { l with state := Machine.retune w on l.state }

theorem loadList_retune (l : List Reg) (a : Word) (acc : Loaded) :
    loadList l a (acc.retune w on) = (loadList l a acc).map (Loaded.retune w on) := by
  induction l generalizing a acc with
  | nil => rfl
  | cons i rest ih =>
    simp only [loadList, Loaded.retune, readWord_retune]
    cases readWord a acc.state with
    | error e => rfl
    | ok x =>
      by_cases hi : i = Reg.pc
      · simp only [Except.map, if_pos hi]
        exact ih (a + 4) { pcValue := some x.1, state := x.2 }
      · simp only [Except.map, if_neg hi]
        exact ih (a + 4) { acc with state := x.2.writeReg i x.1 }

theorem storeList_retune (l : List Reg) (a : Word) :
    storeList l a (retune w on s) = (storeList l a s).map (retune w on) := by
  induction l generalizing a s with
  | nil => rfl
  | cons i rest ih =>
    simp only [storeList, writeWord_retune, show (retune w on s).readReg i = s.readReg i from rfl]
    cases writeWord a (s.readReg i) s with
    | error e => rfl
    | ok t => exact ih t (a + 4)

end

theorem writeBackStatus_retune (w : Word) (on : Bool) (s : State) (sf : Bool) (rd : Reg) (r : Word) (k : FlagClass)
    (wr : Bool) :
    writeBackStatus sf rd r k wr (retune w on s) =
      retune (writeBackStatus sf rd r k wr (retune w on s)).cpsr on (writeBackStatus sf rd r k wr s) := by
  simp only [writeBackStatus]
  split
  · rfl
  · split <;> rfl

/-! ## Writes of CPSR keep the agreement -/

/-- Two CPSR values with the same bits from `n` up. -/
def AgreeFrom (n : Nat) (v w : Word) : Prop :=
  ∀ k, n ≤ k → w.getLsbD k = v.getLsbD k

section
variable {n : Nat} {v w : Word}

theorem AgreeFrom.withTop (h : AgreeFrom n v w) (f : BitVec 4) : AgreeFrom n (withTop v f) (withTop w f) := by
  intro k hk
  by_cases hk32 : k < 32
  · rw [withTop_getLsbD w f hk32, withTop_getLsbD v f hk32, h k hk]
  · rw [BitVec.getLsbD_of_ge _ _ (by omega), BitVec.getLsbD_of_ge _ _ (by omega)]

theorem AgreeFrom.withT (h : AgreeFrom n v w) (t : Bool) : AgreeFrom n (withT v t) (withT w t) := by
  intro k hk
  by_cases hk5 : k = 5
  · subst hk5
    exact (flagT_withT w t).trans (flagT_withT v t).symm
  · rw [withT_getLsbD_of_ne w t hk5, withT_getLsbD_of_ne v t hk5, h k hk]

theorem AgreeFrom.mergeMasked (h : AgreeFrom n v w) (x mask : Word) :
    AgreeFrom n (mergeMasked v x mask) (mergeMasked w x mask) := by
  intro k hk
  by_cases hk32 : k < 32
  · rw [mergeMasked_getLsbD w x mask hk32, mergeMasked_getLsbD v x mask hk32, h k hk]
  · rw [BitVec.getLsbD_of_ge _ _ (by omega), BitVec.getLsbD_of_ge _ _ (by omega)]

theorem AgreeFrom.setFlags (hn : n ≤ 28) (h : AgreeFrom n v w) (r : Word) (k : FlagClass) :
    AgreeFrom n (setFlags v r k) (setFlags w r k) := by
  have hV : flagV w = flagV v := h 28 hn
  cases k
  case logical sco =>
    simp only [Machine.setFlags, hV]
    exact h.withTop _
  case arithmetic => exact h.withTop _

end

/-! ## Each shared operation -/

section
variable {n : Nat} {w : Word} {on : Bool} {s : State} (hn : n ≤ 28) (hw : AgreeFrom n s.cpsr w)
include hw

/-- An update that keeps CPSR. -/
theorem twin_retune {t : State} (ht : t.cpsr = s.cpsr) : Twin n on t (retune w on t) :=
  ⟨w, rfl, ht ▸ hw⟩

theorem raiseUnsupported_twin : TwinResult n on (raiseUnsupported s) (raiseUnsupported (retune w on s)) := by
  simp only [raiseUnsupported, show (retune w on s).cfg.errorPolicy = s.cfg.errorPolicy from rfl]
  split
  · rfl
  · exact twin_retune hw rfl

theorem unlisted_twin {b b' : Result} (h : TwinResult n on b b') :
    TwinResult n on (unlisted s b) (unlisted (retune w on s) b') := by
  simp only [unlisted, show (retune w on s).cfg.unlisted = s.cfg.unlisted from rfl]
  split
  · exact raiseUnsupported_twin hw
  · exact h

include hn

theorem condPassed_retune (c : Cond) : condPassed c (retune w on s).cpsr = condPassed c s.cpsr :=
  condPassed_congr c fun k hk => hw k (by omega)

theorem flagC_retune : flagC (retune w on s).cpsr = flagC s.cpsr :=
  hw 29 (by omega)

theorem conditional_twin (c : Cond) {b b' : Result} (h : TwinResult n on b b') :
    TwinResult n on (conditional c s b) (conditional c (retune w on s) b') := by
  simp only [conditional, condPassed_retune hn hw]
  split
  · exact h
  · exact twin_retune hw rfl

theorem immOperand_retune (op : ImmOperand) : immOperand op (retune w on s) = immOperand op s := by
  simp only [immOperand, flagC_retune hn hw]

theorem shiftOperand_retune (op : ShiftOperand) : shiftOperand op (retune w on s) = shiftOperand op s := by
  simp only [shiftOperand, flagC_retune hn hw]
  rfl

theorem writeBack_twin (sf : Bool) (rd : Reg) (r : Word) (k : FlagClass) (wr : Bool) :
    Twin n on (writeBack sf rd r k wr s) (writeBack sf rd r k wr (retune w on s)) := by
  refine ⟨(writeBack sf rd r k wr (retune w on s)).cpsr, ?_, ?_⟩
  · cases wr
    · exact writeBackStatus_retune ..
    · exact congrArg (State.writeReg · rd r) (writeBackStatus_retune ..)
  · change AgreeFrom n _ _
    rw [writeBack_cpsr, writeBack_cpsr]
    split
    · exact hw
    · split
      · exact fun _ _ => rfl
      · exact hw.setFlags hn r k

theorem dpLogical_twin (c : Cond) (sf wr : Bool) (rd : Reg) (f : Word → Word → Word) (rn : Reg) {sh sh' : ShifterOut}
    (hsh : sh' = sh) :
    TwinResult n on (dpLogical c sf wr rd f rn sh s) (dpLogical c sf wr rd f rn sh' (retune w on s)) := by
  subst hsh
  exact conditional_twin hn hw c (writeBack_twin hn hw ..)

theorem dpArithmetic_twin (c : Cond) (sf wr : Bool) (rd : Reg) (f : Word → Word → Bool → AluOut) (rn : Reg)
    {sh sh' : ShifterOut} (hsh : sh' = sh) :
    TwinResult n on (dpArithmetic c sf wr rd f rn sh s) (dpArithmetic c sf wr rd f rn sh' (retune w on s)) := by
  subst hsh
  simp only [dpArithmetic, flagC_retune hn hw]
  exact conditional_twin hn hw c (writeBack_twin hn hw ..)

end

/-! ## Transfers -/

section
variable {n : Nat} {w : Word} {on : Bool} {s : State}

theorem baseUpdate_retune (m : LsOperand) (a : Address) (u : State) :
    baseUpdate m a (retune w on u) = retune w on (baseUpdate m a u) := by
  simp only [baseUpdate]
  split <;> rfl

theorem multipleUpdate_retune (m : LsmOperand) (wb : Word) (u : State) :
    multipleUpdate m wb (retune w on u) = retune w on (multipleUpdate m wb u) := by
  simp only [multipleUpdate]
  split <;> rfl

theorem writePcInterworking_twin (hw : AgreeFrom n s.cpsr w) (v : Word) {t : State} (ht : t.cpsr = s.cpsr) :
    Twin n on (writePcInterworking v t) (writePcInterworking v (retune w on t)) :=
  ⟨withT w (v.getLsbD 0), rfl, by
    rw [writePcInterworking_cpsr, ht]
    exact hw.withT _⟩

theorem writeLoaded_twin (hw : AgreeFrom n s.cpsr w) (rd : Reg) (v : Word) {t : State} (ht : t.cpsr = s.cpsr) :
    Twin n on (writeLoaded rd v t) (writeLoaded rd v (retune w on t)) := by
  simp only [writeLoaded]
  split
  · exact writePcInterworking_twin hw v ht
  · exact twin_retune hw (t := t.writeReg rd v) ht

theorem finishLoad_twin (hw : AgreeFrom n s.cpsr w) (m : LsmOperand) (wb : Word) {l : Loaded}
    (hl : l.state.cpsr = s.cpsr) : Twin n on (finishLoad m wb l) (finishLoad m wb (l.retune w on)) := by
  simp only [finishLoad, Loaded.retune, multipleUpdate_retune]
  split
  · exact twin_retune hw (by simpa using hl)
  · exact writePcInterworking_twin hw _ (by simpa using hl)

theorem singleTransfer_twin (hn : n ≤ 28) (hw : AgreeFrom n s.cpsr w) (c : Cond) (m : LsOperand)
    {body body' : Address → Except Fault State}
    (h : ∀ a, TwinResult n on (ofBus (body a)) (ofBus (body' a))) :
    TwinResult n on (singleTransfer c m s body) (singleTransfer c m (retune w on s) body') := by
  refine conditional_twin hn hw c ?_
  rw [show addressRefusal m (retune w on s) = addressRefusal m s from rfl,
    show address m (retune w on s) = address m s from rfl]
  split
  · rfl
  · exact h _

theorem multipleTransfer_twin (hn : n ≤ 28) (hw : AgreeFrom n s.cpsr w) (c : Cond) (m : LsmOperand)
    {body body' : Except Fault State} (h : TwinResult n on (ofBus body) (ofBus body')) :
    TwinResult n on (multipleTransfer c m s body) (multipleTransfer c m (retune w on s) body') := by
  refine conditional_twin hn hw c ?_
  rw [show multipleRefusal m (retune w on s) = multipleRefusal m s from rfl]
  split
  · rfl
  · exact h

/-! ## Each transfer and coprocessor instruction -/

theorem execLdr_twin (hn : n ≤ 28) (hw : AgreeFrom n s.cpsr w) (c : Cond) (m : LsOperand) :
    TwinResult n on (execLdr c m s) (execLdr c m (retune w on s)) := by
  refine singleTransfer_twin hn hw c m fun a => ?_
  rw [readWord_retune]
  cases hr : readWord a.addr s with
  | error e => rfl
  | ok x =>
    simp only [Except.map, baseUpdate_retune]
    exact writeLoaded_twin hw m.rd _ (by simpa using (readWord_readsOnly hr).cpsr)

theorem execLdrb_twin (hn : n ≤ 28) (hw : AgreeFrom n s.cpsr w) (c : Cond) (m : LsOperand) :
    TwinResult n on (execLdrb c m s) (execLdrb c m (retune w on s)) := by
  refine unlisted_twin hw (singleTransfer_twin hn hw c m fun a => ?_)
  rw [readByteBus_retune]
  cases hr : readByteBus a.addr s with
  | error e => rfl
  | ok x =>
    simp only [Except.map, baseUpdate_retune]
    exact twin_retune hw (t := (baseUpdate m a x.2).writeReg m.rd (x.1.setWidth 32))
      (by simpa using (readByteBus_readsOnly hr).cpsr)

theorem execStr_twin (hn : n ≤ 28) (hw : AgreeFrom n s.cpsr w) (c : Cond) (m : LsOperand) :
    TwinResult n on (execStr c m s) (execStr c m (retune w on s)) := by
  refine singleTransfer_twin hn hw c m fun a => ?_
  rw [show (retune w on s).readReg m.rd = s.readReg m.rd from rfl, writeWord_retune]
  cases hr : writeWord a.addr (s.readReg m.rd) s with
  | error e => rfl
  | ok u =>
    simp only [Except.map, baseUpdate_retune]
    exact twin_retune hw (by simpa using (busWrite_writesBus hr).cpsr)

theorem execStrb_twin (hn : n ≤ 28) (hw : AgreeFrom n s.cpsr w) (c : Cond) (m : LsOperand) :
    TwinResult n on (execStrb c m s) (execStrb c m (retune w on s)) := by
  refine unlisted_twin hw (singleTransfer_twin hn hw c m fun a => ?_)
  rw [show (retune w on s).readReg m.rd = s.readReg m.rd from rfl, writeByteBus_retune]
  cases hr : writeByteBus a.addr ((s.readReg m.rd).setWidth 8) s with
  | error e => rfl
  | ok u =>
    simp only [Except.map, baseUpdate_retune]
    exact twin_retune hw (by simpa using (busWrite_writesBus hr).cpsr)

theorem execLdm_twin (hn : n ≤ 28) (hw : AgreeFrom n s.cpsr w) (c : Cond) (m : LsmOperand) :
    TwinResult n on (execLdm c m s) (execLdm c m (retune w on s)) := by
  refine multipleTransfer_twin hn hw c m ?_
  have hload := loadList_retune w on (regList m.list) (startAddress m s) { pcValue := none, state := s }
  rw [show startAddress m (retune w on s) = startAddress m s from rfl,
    show multipleBase m (retune w on s) = multipleBase m s from rfl]
  rw [Loaded.retune] at hload
  rw [hload]
  cases hr : loadList (regList m.list) (startAddress m s) { pcValue := none, state := s } with
  | error e => rfl
  | ok l => exact finishLoad_twin hw m _ (loadList_loadsList hr).cpsr

theorem execStm_twin (hn : n ≤ 28) (hw : AgreeFrom n s.cpsr w) (c : Cond) (m : LsmOperand) :
    TwinResult n on (execStm c m s) (execStm c m (retune w on s)) := by
  refine multipleTransfer_twin hn hw c m ?_
  rw [show startAddress m (retune w on s) = startAddress m s from rfl,
    show multipleBase m (retune w on s) = multipleBase m s from rfl, storeList_retune]
  cases hr : storeList (regList m.list) (startAddress m s) s with
  | error e => rfl
  | ok u =>
    simp only [Except.map, multipleUpdate_retune]
    exact twin_retune hw (by simpa using (storeList_writesBus hr).cpsr)

theorem coprocessorAccess_twin (hn : n ≤ 28) (hw : AgreeFrom n s.cpsr w) (c : Cond) (cp : Fin 16) (id : BitVec 16)
    {body body' : Word → State} (h : ∀ v, Twin n on (body v) (body' v)) :
    TwinResult n on (coprocessorAccess c cp id s body) (coprocessorAccess c cp id (retune w on s) body') := by
  refine conditional_twin hn hw c ?_
  rw [show getCReg cp id (retune w on s) = getCReg cp id s from rfl]
  split
  · exact twin_retune hw (t := undefinedEntry s) rfl
  · exact h _

theorem cdpEffect_retune (d : CdpOperand) : cdpEffect d (retune w on s) = retune w on (cdpEffect d s) := by
  simp only [cdpEffect, show (retune w on s).coproc = s.coproc from rfl]
  split <;> rfl

theorem setCReg_retune (cp : Fin 16) (id : BitVec 16) (v : Word) :
    setCReg cp id v (retune w on s) = retune w on (setCReg cp id v s) := by
  simp only [setCReg, show (retune w on s).coproc = s.coproc from rfl]
  split <;> rfl

theorem execMrc_twin (hn : n ≤ 28) (hw : AgreeFrom n s.cpsr w) (c : Cond) (d : CpOperand) :
    TwinResult n on (execMrc c d s) (execMrc c d (retune w on s)) := by
  refine coprocessorAccess_twin hn hw c _ _ fun v => ?_
  split
  · exact ⟨_, rfl, hw.withTop (mrcFlags s v)⟩
  · exact twin_retune hw (t := s.writeReg d.rd v) rfl

theorem statusWrite_twin (hw : AgreeFrom n s.cpsr w) (r : Bool) (mask : BitVec 4) (v : Word) :
    Twin n on (statusWrite r mask v s) (statusWrite r mask v (retune w on s)) := by
  cases r
  · exact ⟨_, rfl, hw.mergeMasked v (fieldMask mask)⟩
  · exact ⟨w, rfl, hw⟩

/-- MRS reads all of CPSR where it reads CPSR. -/
theorem execMrs_twin (hn : n ≤ 28) (hw : AgreeFrom n s.cpsr w) (c : Cond) {r : Bool} (rd : Reg)
    (hr : n = 0 ∨ r = true) : TwinResult n on (execMrs c r rd s) (execMrs c r rd (retune w on s)) := by
  have hread : statusRead r (retune w on s) = statusRead r s := by
    obtain rfl | rfl := hr
    · have : w = s.cpsr := BitVec.eq_of_getLsbD_eq fun k _ => hw k (Nat.zero_le k)
      cases r
      · exact this
      · rfl
    · rfl
  refine unlisted_twin hw (conditional_twin hn hw c ?_)
  rw [hread]
  simp only [show (retune w on s).cfg.pcOperands = s.cfg.pcOperands from rfl]
  split
  · rfl
  · exact twin_retune hw (t := s.writeReg rd (statusRead r s)) rfl

/-- Every instruction runs alike in twin states, but for MRS of CPSR where CPSR may differ. -/
theorem exec_twin (hn : n ≤ 28) (hw : AgreeFrom n s.cpsr w) (i : Instr)
    (hi : n = 0 ∨ ∀ c rd, i ≠ .mrs c false rd) : TwinResult n on (exec i s) (exec i (retune w on s)) := by
  cases i
  case blx => exact ⟨_, rfl, hw.withT true⟩
  case undefinedNv => exact twin_retune hw (t := undefinedEntry s) rfl
  case dpRegisterShift | multiplyExtendedSpace | lsRegisterOffset => rfl
  case mrs c r rd =>
    refine execMrs_twin hn hw c rd (hi.imp_right fun h => ?_)
    cases r
    · exact absurd rfl (h c rd)
    · rfl
  case msrReg => exact conditional_twin hn hw _ (statusWrite_twin hw ..)
  case msrImm => exact conditional_twin hn hw _ (statusWrite_twin hw ..)
  case dpImmediateEmptySlot | lsmSBit | ldcStc | swi => exact raiseUnsupported_twin hw
  case andImm | orrImm | movImm | bicImm | mvnImm | tstImm | teqImm =>
    exact dpLogical_twin hn hw _ _ _ _ _ _ (immOperand_retune hn hw _)
  case andShift | orrShift | movShift | bicShift | mvnShift | tstShift | teqShift =>
    exact dpLogical_twin hn hw _ _ _ _ _ _ (shiftOperand_retune hn hw _)
  case eorImm => exact unlisted_twin hw (dpLogical_twin hn hw _ _ _ _ _ _ (immOperand_retune hn hw _))
  case eorShift => exact unlisted_twin hw (dpLogical_twin hn hw _ _ _ _ _ _ (shiftOperand_retune hn hw _))
  case subImm | rsbImm | addImm | adcImm | sbcImm | rscImm | cmpImm =>
    exact dpArithmetic_twin hn hw _ _ _ _ _ _ (immOperand_retune hn hw _)
  case subShift | rsbShift | addShift | adcShift | sbcShift | rscShift | cmpShift =>
    exact dpArithmetic_twin hn hw _ _ _ _ _ _ (shiftOperand_retune hn hw _)
  case cmnImm => exact unlisted_twin hw (dpArithmetic_twin hn hw _ _ _ _ _ _ (immOperand_retune hn hw _))
  case cmnShift => exact unlisted_twin hw (dpArithmetic_twin hn hw _ _ _ _ _ _ (shiftOperand_retune hn hw _))
  case ldr => exact execLdr_twin hn hw ..
  case str => exact execStr_twin hn hw ..
  case ldrb => exact execLdrb_twin hn hw ..
  case strb => exact execStrb_twin hn hw ..
  case ldm => exact execLdm_twin hn hw ..
  case stm => exact execStm_twin hn hw ..
  case b offset => exact conditional_twin hn hw _ (twin_retune hw (t := branchBy (branchOffset offset) s) rfl)
  case bl offset =>
    exact conditional_twin hn hw _ (twin_retune hw (t := branchBy (branchOffset offset) (saveReturn s)) rfl)
  case cdp d =>
    refine coprocessorAccess_twin hn hw _ _ _ fun _ => ?_
    rw [cdpEffect_retune]
    exact twin_retune hw (cdpEffect_cpsr d s)
  case mcr d =>
    refine coprocessorAccess_twin hn hw _ _ _ fun _ => ?_
    rw [setCReg_retune]
    exact twin_retune hw (setCReg_cpsr ..)
  case mrc => exact execMrc_twin hn hw ..

end

/-! ## The obligations -/

/-- Settles O58: the case `n = 28`, DISASSEMBLY_MODE as it is. -/
theorem modeHasNoEffectOnExecution : Obligations.ModeHasNoEffectOnExecution := by
  unfold Obligations.ModeHasNoEffectOnExecution
  intro i s w hi hw
  have htwin : TwinResult 28 s.cfg.disassembly (exec i s) (exec i { s with cpsr := w }) :=
    exec_twin (Nat.le_refl 28) hw i (.inr hi)
  cases ht : exec i s <;> cases hu : exec i { s with cpsr := w } <;> rw [ht, hu] at htwin
  case next.next t u =>
    obtain ⟨w', rfl, hw'⟩ := htwin
    refine ⟨?_, hw'⟩
    rw [retune, ← (exec_effect ht).keeps.1]
  case fault.fault => exact htwin
  case refused.refused => exact htwin
  all_goals exact htwin.elim

theorem withDisassembly_eq_retune (on : Bool) (s : State) : withDisassembly on s = retune s.cpsr on s := rfl

/-- Twins that agree in all of CPSR differ in DISASSEMBLY_MODE alone. -/
theorem eq_mapNext_of_twinResult {on : Bool} {r r' : Result} (h : TwinResult 0 on r r') :
    r' = mapNext (withDisassembly on) r := by
  cases r <;> cases r'
  case next.next t u =>
    obtain ⟨w, rfl, hw⟩ := h
    have : w = t.cpsr := BitVec.eq_of_getLsbD_eq fun k _ => hw k (Nat.zero_le k)
    rw [this, ← withDisassembly_eq_retune]
    rfl
  case fault.fault => exact congrArg _ (Eq.symm h)
  case refused.refused => exact congrArg _ (Eq.symm h)
  all_goals exact h.elim

theorem stepRunning_withDisassembly (s : State) (on : Bool) :
    stepRunning (withDisassembly on s) = mapNext (withDisassembly on) (stepRunning s) := by
  simp only [stepRunning, show nextPC (withDisassembly on s) = withDisassembly on (nextPC s) from rfl]
  generalize nextPC s = t
  rw [show (withDisassembly on t).cpsr = t.cpsr from rfl,
    show (withDisassembly on t).cfg.thumbPolicy = t.cfg.thumbPolicy from rfl]
  split
  · rfl
  · have hfetch : fetch (withDisassembly on t) = (fetch t).map fun x => (x.1, retune t.cpsr on x.2) :=
      readWord_retune ..
    rw [hfetch]
    cases hr : fetch t with
    | error e => rfl
    | ok x =>
      have hcpsr : AgreeFrom 0 x.2.cpsr t.cpsr := fun _ _ => by rw [(readWord_readsOnly hr).cpsr]
      exact eq_mapNext_of_twinResult (exec_twin (Nat.zero_le 28) hcpsr _ (.inl rfl))

/-- Settles O59: the case `n = 0`, CPSR the same in both states. -/
theorem disassemblyModeHasNoEffect : Obligations.DisassemblyModeHasNoEffect := by
  unfold Obligations.DisassemblyModeHasNoEffect
  intro s on
  simp only [step, show (withDisassembly on s).stop = s.stop from rfl,
    show (withDisassembly on s).haltReq = s.haltReq from rfl]
  split
  · split
    · rfl
    · exact stepRunning_withDisassembly s on
  all_goals rfl

end Sys2Proof.Machine
end

section
/-! The router: which region answers (R62 to R65), RAM of any width as one flat byte memory (R79), and what another device sees
of an access (R74, R75, R354). -/
namespace Sys2Proof.Machine

/-! ## The lookup -/

theorem regionCovers_iff {r : Region} {a : Addr} :
    regionCovers r a = true ↔ r.base.toNat ≤ a.toNat ∧ a.toNat ≤ r.limit.toNat := by
  simp [regionCovers]

theorem lookup_cons (r : Region) (m : AddressMap) (a : Addr) :
    lookup (r :: m) a = if regionCovers r a then some r else lookup m a := by
  rw [lookup, List.find?_cons]
  cases regionCovers r a <;> rfl

theorem mem_of_lookup {m : AddressMap} {a : Addr} {r : Region} (h : lookup m a = some r) :
    r ∈ m ∧ regionCovers r a = true :=
  ⟨List.mem_of_find?_eq_some h, List.find?_some (p := (regionCovers · a)) h⟩

/-- Two disjoint regions cover no common address (R63). -/
theorem not_regionCovers_of_disjoint {r q : Region} {a : Addr} (h : r.disjoint q = true)
    (hr : regionCovers r a = true) : regionCovers q a = false := by
  rw [regionCovers_iff] at hr
  rw [Bool.eq_false_iff, Ne, regionCovers_iff]
  simp only [Region.disjoint, Bool.or_eq_true, decide_eq_true_eq] at h
  omega

/-- In a well-formed table a covering region is the one looked up. -/
theorem lookup_eq_some_of_mem {m : AddressMap} (hm : AddressMap.wf m = true) {a : Addr} {r : Region} (hr : r ∈ m)
    (ha : regionCovers r a = true) : lookup m a = some r := by
  induction m with
  | nil => cases hr
  | cons q rest ih =>
    simp only [AddressMap.wf, Bool.and_eq_true, List.all_eq_true] at hm
    obtain ⟨⟨-, hdisjoint⟩, hrest⟩ := hm
    rw [lookup_cons]
    obtain rfl | hr := List.mem_cons.1 hr
    · rw [if_pos ha]
    · rw [if_neg, ih hrest hr]
      intro hq
      rw [not_regionCovers_of_disjoint (hdisjoint r hr) hq] at ha
      cases ha

theorem busRead_of_lookup_none {a : Addr} {s : State} (h : lookup s.cfg.addressMap a = none) (d : Nat) :
    busRead a d s = .error .addressRangeMiss := by
  simp only [busRead, h]

theorem busWrite_of_lookup_none {a : Addr} {s : State} (h : lookup s.cfg.addressMap a = none) (d : Nat) (v : BitVec 64) :
    busWrite a d v s = .error .addressRangeMiss := by
  simp only [busWrite, h]

theorem busRead_too_wide {a : Addr} {s : State} {r : Region} {d : Nat} (h : lookup s.cfg.addressMap a = some r)
    (hd : r.width < d) : busRead a d s = .error .widthExceedsDevice := by
  simp only [busRead, h, if_pos hd]

theorem busWrite_too_wide {a : Addr} {s : State} {r : Region} {d : Nat} (h : lookup s.cfg.addressMap a = some r)
    (hd : r.width < d) (v : BitVec 64) : busWrite a d v s = .error .widthExceedsDevice := by
  simp only [busWrite, h, if_pos hd]

/-- Settles O15: the table's regions are disjoint, so the first that covers is the only one. -/
theorem lookupFindsTheCoveringRegion : Obligations.LookupFindsTheCoveringRegion := by
  unfold Obligations.LookupFindsTheCoveringRegion
  intro a d v s
  refine ⟨fun hwf r => ⟨fun h => ?found, fun ⟨hr, ha⟩ => lookup_eq_some_of_mem hwf hr (regionCovers_iff.2 ha)⟩,
    fun hmiss => ?miss, fun r hr hd => ⟨busRead_too_wide hr hd, busWrite_too_wide hr hd v⟩⟩
  case found =>
    obtain ⟨hmem, hcovers⟩ := mem_of_lookup h
    exact ⟨hmem, regionCovers_iff.1 hcovers⟩
  case miss =>
    have hnone : lookup s.cfg.addressMap a = none :=
      List.find?_eq_none.2 fun r hr hcovers => hmiss r hr (regionCovers_iff.1 hcovers)
    exact ⟨busRead_of_lookup_none hnone d, busWrite_of_lookup_none hnone d v⟩

/-! ## An access the router grants -/

theorem Region.wf_legalWidth {r : Region} (h : r.wf = true) : legalWidth r.width = true := by
  simp only [Region.wf, Bool.and_eq_true] at h
  exact h.1.1.2

section
variable {a : Addr} {d : Nat} {s : State} {r : Region} (hr : lookup s.cfg.addressMap a = some r) (hwf : r.wf = true)
  (hd : legalWidth d = true)
include hr hwf hd

/-- R74: one device read of the bus word, the field of which the request gets. -/
theorem busRead_eq (hle : d ≤ r.width) :
    busRead a d s = .ok ((deviceRead r ((a &&& addressMask r.width) - r.base) s).1 >>> shiftFor a r.width d &&& dataMask d,
      (deviceRead r ((a &&& addressMask r.width) - r.base) s).2) := by
  simp only [busRead, hr, if_neg (Nat.not_lt.2 hle), readMasked_of_legalWidth a _ (Region.wf_legalWidth hwf) hd]

omit hwf hd in
/-- R75: a full-width write is one device write. -/
theorem busWrite_full (hle : d = r.width) (v : BitVec 64) :
    busWrite a d v s = .ok (deviceWrite r ((a &&& addressMask r.width) - r.base) (v &&& dataMask r.width) s) := by
  simp only [busWrite, hr, if_pos hle, if_neg (Nat.not_lt.2 hle.le)]

/-- R75: a narrow write is a device read and a device write of the merged word. -/
theorem busWrite_narrow (hlt : d < r.width) (v : BitVec 64) :
    busWrite a d v s = .ok (deviceWrite r ((a &&& addressMask r.width) - r.base)
      (mergeField (deviceRead r ((a &&& addressMask r.width) - r.base) s).1 v d (shiftFor a r.width d) &&& dataMask r.width)
      (deviceRead r ((a &&& addressMask r.width) - r.base) s).2) := by
  simp only [busWrite, hr, if_neg (Nat.not_lt.2 hlt.le), if_neg hlt.ne,
    writeMasked_of_legalWidth a _ v (Region.wf_legalWidth hwf) hd]

end

/-! ## Rounded addresses -/

/-- The bytes of a width in WIDTHS divide those of a wider one. -/
theorem bytes_dvd {b d : Nat} (hb : legalWidth b = true) (hd : legalWidth d = true) (h : d ≤ b) : d / 8 ∣ b / 8 := by
  obtain ⟨kb, -, rfl⟩ := legalWidth_cases hb
  obtain ⟨kd, -, rfl⟩ := legalWidth_cases hd
  rw [show 8 * 2 ^ kb / 8 = 2 ^ kb by omega, show 8 * 2 ^ kd / 8 = 2 ^ kd by omega]
  exact Nat.pow_dvd_pow 2 ((Nat.pow_le_pow_iff_right Nat.one_lt_two).1 (by omega))

theorem legalWidth_eq_bytes {d : Nat} (h : legalWidth d = true) : d = 8 * (d / 8) ∧ 0 < d / 8 := by
  obtain ⟨k, -, rfl⟩ := legalWidth_cases h
  have := Nat.two_pow_pos k
  omega

/-- Rounding down to the bus word and then to the field inside it is rounding down to the field. -/
theorem round_down_twice (a : Nat) {w d : Nat} (h : d ∣ w) (hd : 0 < d) :
    a / w * w + a % w / d * d = a / d * d := by
  obtain ⟨q, rfl⟩ := h
  have hsplit : a / d = a / (d * q) * q + a % (d * q) / d := by
    conv_lhs => rw [← Nat.div_add_mod a (d * q), Nat.mul_assoc, Nat.mul_add_div hd, Nat.mul_comm q]
  rw [hsplit, Nat.add_mul]
  congr 1
  rw [Nat.mul_assoc, Nat.mul_comm q]

theorem bytes_pow (k : Nat) : (256 : Nat) ^ k = 2 ^ (8 * k) := by
  rw [Nat.pow_mul]

/-! ## RAM -/

/-- A RAM region reads its bus word at the rounded absolute address: its base cancels (log 19). -/
theorem deviceRead_ram {r : Region} (hram : r.device = .ram) (hwf : r.wf = true) (a : Addr) (s : State) :
    deviceRead r ((a &&& addressMask r.width) - r.base) s =
      (BitVec.ofNat 64 (readBytes s.mem (a.toNat / (r.width / 8) * (r.width / 8)) (r.width / 8)), s) := by
  simp only [deviceRead, hram, base_add_offset, and_addressMask a (Region.wf_legalWidth hwf)]

theorem deviceWrite_ram {r : Region} (hram : r.device = .ram) (hwf : r.wf = true) (a : Addr) (v : BitVec 64) (s : State) :
    deviceWrite r ((a &&& addressMask r.width) - r.base) v s =
      { s with mem := writeBytes s.mem (a.toNat / (r.width / 8) * (r.width / 8)) (r.width / 8) v.toNat } := by
  simp only [deviceWrite, hram, base_add_offset, and_addressMask a (Region.wf_legalWidth hwf)]

theorem readBytes_lt_two_pow (m : List Host.Cell) (a : Nat) {b : Nat} (hb : legalWidth b = true) :
    readBytes m a (b / 8) < 2 ^ 64 := by
  have hle := legalWidth_le hb
  calc readBytes m a (b / 8) < 256 ^ (b / 8) := readBytes_lt m a _
    _ = 2 ^ (8 * (b / 8)) := bytes_pow _
    _ ≤ 2 ^ 64 := Nat.pow_le_pow_right (by omega) (by omega)

/-- Settles O16: the field of the bus word is the part of its bytes that starts at the rounded address. -/
theorem ramReadIsFlat : Obligations.RamReadIsFlat := by
  unfold Obligations.RamReadIsFlat
  intro a d s r hd hr hram hwf hle
  have hb := Region.wf_legalWidth hwf
  obtain ⟨hd8, hdpos⟩ := legalWidth_eq_bytes hd
  have hshift := shiftFor_eq a hb hd
  have hfit := shiftFor_add_le a hb hd hle
  rw [busRead_eq hr hwf hd hle, deviceRead_ram hram hwf]
  congr 2
  apply BitVec.eq_of_toNat_eq
  rw [and_dataMask_toNat, BitVec.toNat_ushiftRight, BitVec.toNat_ofNat, BitVec.toNat_ofNat,
    Nat.mod_eq_of_lt (readBytes_lt_two_pow _ _ hb), Nat.mod_eq_of_lt (readBytes_lt_two_pow _ _ hd),
    Nat.shiftRight_eq_div_pow, hshift, Nat.mul_comm _ 8, ← bytes_pow]
  conv_lhs => rw [hd8, ← bytes_pow]
  rw [show 8 * (d / 8) / 8 = d / 8 by omega, readBytes_part _ _ _ _ _ (by omega),
    round_down_twice _ (bytes_dvd hb hd hle) hdpos]

/-! ### Byte `k` of a bus word is `v.extractLsb' (8 * k) 8` -/

theorem byte_readBytes (m : List Host.Cell) (a : Nat) {b k : Nat} (hb : legalWidth b = true) (hk : k < b / 8) :
    (BitVec.ofNat 64 (readBytes m a (b / 8))).extractLsb' (8 * k) 8 = readByte m (a + k) := by
  rw [← ofNat_div_byte, BitVec.toNat_ofNat, Nat.mod_eq_of_lt (readBytes_lt_two_pow m a hb)]
  apply BitVec.eq_of_toNat_eq
  rw [BitVec.toNat_ofNat]
  exact readBytes_byte m a _ k hk

theorem byte_and_dataMask (v : BitVec 64) {d k : Nat} (hk : 8 * k + 8 ≤ d) :
    (v &&& dataMask d).extractLsb' (8 * k) 8 = v.extractLsb' (8 * k) 8 := by
  apply BitVec.eq_of_getLsbD_eq
  intro j hj
  simp only [BitVec.getLsbD_extractLsb', BitVec.getLsbD_and, getLsbD_dataMask, hj, show 8 * k + j < d by omega,
    decide_true, Bool.true_and, Bool.and_true]
  by_cases h : 8 * k + j < 64
  · simp [h]
  · simp [BitVec.getLsbD_of_ge v _ (Nat.le_of_not_lt h)]

/-- Outside the field a merged word reads the old word. -/
theorem getLsbD_mergeField_outside (w n : BitVec 64) {d sh i : Nat} (hi : ¬(sh ≤ i ∧ i < sh + d)) :
    (mergeField w n d sh).getLsbD i = w.getLsbD i := by
  have hout : (dataMask d <<< sh).getLsbD i = false := by
    rw [getLsbD_dataMask_shiftLeft]
    exact decide_eq_false fun h => hi h.2
  have hbit := congrArg (BitVec.getLsbD · i) (mergeField_and_not_fieldMask w n d sh)
  by_cases h64 : i < 64
  · simpa only [BitVec.getLsbD_and, BitVec.getLsbD_not, hout, h64, decide_true, Bool.not_false, Bool.and_true] using hbit
  · rw [BitVec.getLsbD_of_ge _ _ (by omega), BitVec.getLsbD_of_ge _ _ (by omega)]

theorem byte_mergeField_inside (w n : BitVec 64) {d j k : Nat} (hk : 8 * k + 8 ≤ d) (hfit : 8 * j + d ≤ 64) :
    (mergeField w n d (8 * j)).extractLsb' (8 * (j + k)) 8 = n.extractLsb' (8 * k) 8 := by
  apply BitVec.eq_of_getLsbD_eq
  intro i hi
  rw [BitVec.getLsbD_extractLsb', BitVec.getLsbD_extractLsb', show 8 * (j + k) + i = 8 * j + (8 * k + i) by omega,
    getLsbD_mergeField_inside w n (by omega) hfit]

theorem byte_mergeField_outside (w n : BitVec 64) {d j k : Nat} (hk : ¬(8 * j ≤ 8 * k ∧ 8 * k < 8 * j + d)) (hd : 8 ∣ d) :
    (mergeField w n d (8 * j)).extractLsb' (8 * k) 8 = w.extractLsb' (8 * k) 8 := by
  apply BitVec.eq_of_getLsbD_eq
  intro i hi
  rw [BitVec.getLsbD_extractLsb', BitVec.getLsbD_extractLsb', getLsbD_mergeField_outside w n (by omega)]

/-! ### A write to RAM -/

/-- The bytes of `m'` are those of `v`, little-endian, in the `n` places from `a` up, and those of `m` elsewhere. -/
def BytesWritten (m m' : List Host.Cell) (a n : Nat) (v : BitVec 64) : Prop :=
  ∀ x, readByte m' x = if a ≤ x ∧ x < a + n then v.extractLsb' (8 * (x - a)) 8 else readByte m x

theorem writeBytes_bytesWritten {m : List Host.Cell} (hm : Memory.wf m = true) (a n : Nat) (v : BitVec 64) :
    BytesWritten m (writeBytes m a n v.toNat) a n v := by
  intro x
  rw [readByte_writeBytes hm, ofNat_div_byte]

/-- Writing the bus word with one field replaced writes that field. -/
theorem bytesWritten_of_mergeField {m m' : List Host.Cell} {a b d j : Nat} {v : BitVec 64} (hb : legalWidth b = true)
    (hd : legalWidth d = true) (hfit : 8 * j + d ≤ b)
    (h : BytesWritten m m' a (b / 8)
      (mergeField (BitVec.ofNat 64 (readBytes m a (b / 8))) v d (8 * j) &&& dataMask b)) :
    BytesWritten m m' (a + j) (d / 8) v := by
  have hb8 := (legalWidth_eq_bytes hb).1
  have hd8 := (legalWidth_eq_bytes hd).1
  have hb64 := legalWidth_le hb
  intro x
  rw [h x]
  by_cases hx : a ≤ x ∧ x < a + b / 8
  · rw [if_pos hx, byte_and_dataMask _ (by omega)]
    by_cases hin : a + j ≤ x ∧ x < a + j + d / 8
    · rw [if_pos hin, show x - a = j + (x - (a + j)) by omega, byte_mergeField_inside _ _ (by omega) (by omega)]
    · rw [if_neg hin, byte_mergeField_outside _ _ (by omega) (by omega), byte_readBytes m a hb (by omega),
        Nat.add_sub_cancel' hx.1]
  · rw [if_neg hx, if_neg (by omega)]

/-- R79: over RAM of any width a router write succeeds, and stores the request's bytes at the rounded address. -/
theorem busWrite_ram {a : Addr} {d : Nat} {s : State} {r : Region} (hm : Memory.wf s.mem = true)
    (hd : legalWidth d = true) (hr : lookup s.cfg.addressMap a = some r) (hram : r.device = .ram) (hwf : r.wf = true)
    (hle : d ≤ r.width) (v : BitVec 64) :
    ∃ m', busWrite a d v s = .ok { s with mem := m' } ∧ Memory.wf m' = true ∧
      BytesWritten s.mem m' (a.toNat / (d / 8) * (d / 8)) (d / 8) v := by
  have hb := Region.wf_legalWidth hwf
  have hbase := round_down_twice a.toNat (bytes_dvd hb hd hle) (legalWidth_eq_bytes hd).2
  obtain heq | hlt := hle.eq_or_lt
  · refine ⟨_, (busWrite_full hr heq v).trans (by rw [deviceWrite_ram hram hwf]), writeBytes_wf hm _ _ _, ?_⟩
    intro x
    rw [writeBytes_bytesWritten hm, ← heq]
    have hd8 := (legalWidth_eq_bytes hd).1
    split
    · rw [byte_and_dataMask _ (by omega)]
    · rfl
  · refine ⟨_, (busWrite_narrow hr hwf hd hlt v).trans (by rw [deviceRead_ram hram hwf, deviceWrite_ram hram hwf]),
      writeBytes_wf hm _ _ _, ?_⟩
    have hshift := shiftFor_eq a hb hd
    have hfit := shiftFor_add_le a hb hd hle
    rw [hshift, Nat.mul_comm _ 8] at hfit ⊢
    rw [← hbase]
    exact bytesWritten_of_mergeField hb hd hfit (writeBytes_bytesWritten hm _ _ _)

/-- Settles O17: the stored bytes are the request's inside the rounded field and the old ones outside. -/
theorem ramWriteIsFlat : Obligations.RamWriteIsFlat := by
  unfold Obligations.RamWriteIsFlat
  intro a d v s r hm hd hr hram hwf hle
  obtain ⟨m', hwrite, -, hbytes⟩ := busWrite_ram hm hd hr hram hwf hle v
  refine ⟨_, hwrite, rfl, fun k hk => ?inside, fun x hx => ?outside⟩
  case inside => rw [State.byteAt, hbytes, if_pos (by omega), Nat.add_sub_cancel_left]
  case outside => rw [State.byteAt, hbytes, if_neg hx, State.byteAt]

/-! ## Other devices -/

/-- The rounded address lies in the region, whose base is a multiple of every width (R64). -/
theorem base_le_rounded {r : Region} {a : Addr} (hwf : r.wf = true) (ha : regionCovers r a = true) :
    r.base.toNat ≤ a.toNat / (r.width / 8) * (r.width / 8) := by
  obtain ⟨k, hk, hwidth⟩ := legalWidth_cases (Region.wf_legalWidth hwf)
  rw [regionCovers_iff] at ha
  simp only [Region.wf, Bool.and_eq_true, beq_iff_eq] at hwf
  rw [hwidth, show 8 * 2 ^ k / 8 = 2 ^ k by omega]
  have hdvd : 2 ^ k ∣ r.base.toNat := (Nat.pow_dvd_pow 2 hk).trans (Nat.dvd_of_mod_eq_zero hwf.1.2)
  obtain ⟨q, hq⟩ := hdvd
  rw [hq, Nat.mul_comm] at ha ⊢
  exact Nat.mul_le_mul_right _ ((Nat.le_div_iff_mul_le (Nat.two_pow_pos k)).2 ha.1)

/-- The device's offset: the address less the base, rounded down to the device's width (D13, log 18). -/
theorem deviceOffset_toNat {r : Region} {a : Addr} (hwf : r.wf = true) (ha : regionCovers r a = true) :
    ((a &&& addressMask r.width) - r.base).toNat + r.base.toNat = a.toNat / (r.width / 8) * (r.width / 8) := by
  have hrounded := and_addressMask a (Region.wf_legalWidth hwf)
  have hle := base_le_rounded hwf ha
  rw [BitVec.toNat_sub_of_le (by rwa [BitVec.le_def, hrounded]), hrounded]
  omega

theorem deviceRead_peripheral {r : Region} {n : Nat} (h : r.device = .peripheral n) (off : Addr) (s : State) :
    deviceRead r off s =
      ((Config.peripheralRead n s.busTick (cellGet periphDefault s.periph n) off).1,
        { s with
          periph := cellSet periphDefault s.periph n
            (Config.peripheralRead n s.busTick (cellGet periphDefault s.periph n) off).2
          busTick := s.busTick + 1 }) := by
  simp only [deviceRead, h]

theorem deviceWrite_peripheral {r : Region} {n : Nat} (h : r.device = .peripheral n) (off : Addr) (v : BitVec 64)
    (s : State) :
    deviceWrite r off v s = { s with
      periph := cellSet periphDefault s.periph n
        (Config.peripheralWrite n s.busTick (cellGet periphDefault s.periph n) off v)
      busTick := s.busTick + 1 } := by
  simp only [deviceWrite, h]

/-- Settles O18: the router's accesses, with the device functions written out. -/
theorem deviceSeesReadThenWrite : Obligations.DeviceSeesReadThenWrite := by
  unfold Obligations.DeviceSeesReadThenWrite
  intro a d n v s r hr hdev hwf hd off st q
  have hb := Region.wf_legalWidth hwf
  have hd64 := legalWidth_le hd
  refine ⟨deviceOffset_toNat hwf (mem_of_lookup hr).2, fun hle => ?read, fun heq => ?full, fun hlt => ?narrow⟩
  case read =>
    refine ⟨_, (busRead_eq hr hwf hd hle).trans (by rw [deviceRead_peripheral hdev]), fun k => ?_⟩
    rw [BitVec.getLsbD_and, BitVec.getLsbD_ushiftRight, getLsbD_dataMask, shiftFor_eq a hb hd, Nat.mul_comm _ 8,
      Bool.and_comm]
    congr 1
    by_cases hk : k < d
    · simp [hk, show k < 64 by omega]
    · simp [hk]
  case full => exact (busWrite_full hr heq v).trans (by rw [deviceWrite_peripheral hdev])
  case narrow =>
    refine ⟨_, writeMasked_of_legalWidth a _ v hb hd, _, busWrite_narrow hr hwf hd hlt v, ?_⟩
    rw [deviceRead_peripheral hdev, deviceWrite_peripheral hdev]
    exact ⟨rfl, rfl⟩

end Sys2Proof.Machine
end

section
/-! Data processing, the other instructions: carry and overflow with a carry in (R147, R148), and the unlisted ones (R119). -/
namespace Sys2Proof.Machine

/-! ## The ALU with a carry in, in exact arithmetic -/

/-- The sign rule of R144 over a sum with a carry in. -/
theorem overflowAdd_carry (a b : Word) (cin : Bool) :
    overflowAdd a b (BitVec.ofNat 32 (a.toNat + b.toNat + cin.toNat)) =
      signedOverflow (a.toInt + b.toInt + cin.toNat) := by
  have ha := a.isLt; have hb := b.isLt; have hc := cin.toNat_lt
  rw [Bool.eq_iff_iff]
  simp only [overflowAdd, signedOverflow, getLsbD_31_eq, BitVec.toNat_ofNat, BitVec.toInt_eq_toNat_cond, Bool.and_eq_true,
    beq_iff_eq, bne_iff_ne, decide_eq_decide, decide_eq_true_eq, ne_eq]
  split <;> split <;> omega

/-- R147: the sum, carry-out and overflow of the exact sum. -/
theorem adcFlags_eq (a b : Word) (cin : Bool) :
    adcFlags a b cin = ⟨a + b + BitVec.ofNat 32 cin.toNat, decide (2 ^ 32 ≤ a.toNat + b.toNat + cin.toNat),
      signedOverflow (a.toInt + b.toInt + cin.toNat)⟩ := by
  rw [← overflowAdd_carry, adcFlags, BitVec.ofNat_add, BitVec.ofNat_add, BitVec.ofNat_toNat, BitVec.ofNat_toNat,
    BitVec.setWidth_eq, BitVec.setWidth_eq]

/-- The sign rule of R145 over a difference with a borrow in. -/
theorem overflowSub_borrow (a b : Word) (bin : Bool) :
    overflowSub a b (BitVec.ofInt 32 (a.toNat - b.toNat - bin.toNat)) =
      signedOverflow (a.toInt - b.toInt - bin.toNat) := by
  have ha := a.isLt; have hb := b.isLt; have hc := bin.toNat_lt
  rw [Bool.eq_iff_iff]
  simp only [overflowSub, signedOverflow, getLsbD_31_eq, BitVec.toNat_ofInt, BitVec.toInt_eq_toNat_cond, Bool.and_eq_true,
    bne_iff_ne, decide_eq_decide, decide_eq_true_eq, ne_eq]
  split <;> split <;> omega

/-- R148: NOT C is the borrow in. -/
theorem sbcFlags_eq (a b : Word) (cin : Bool) :
    sbcFlags a b cin = ⟨a - b - BitVec.ofNat 32 (!cin).toNat, decide (b.toNat + (!cin).toNat ≤ a.toNat),
      signedOverflow (a.toInt - b.toInt - (!cin).toNat)⟩ := by
  have hborrow : (1 : Int) - cin.toNat = ((!cin).toNat : Int) := by cases cin <;> rfl
  have hcarry : decide ((0 : Int) ≤ a.toNat - b.toNat - (!cin).toNat) = decide (b.toNat + (!cin).toNat ≤ a.toNat) :=
    decide_eq_decide.2 (by omega)
  rw [← overflowSub_borrow]
  simp only [sbcFlags, hborrow, hcarry]
  congr 1
  apply BitVec.eq_of_toNat_eq
  have := a.isLt; have := b.isLt; have := (!cin).toNat_lt
  simp only [BitVec.toNat_ofInt, BitVec.toNat_sub, BitVec.toNat_ofNat]
  omega

/-! ## The obligations -/

/-- Settles O23: BIC and MVN are of the logical class. -/
theorem bicMvnResults : Obligations.BicMvnResults := by
  unfold Obligations.BicMvnResults
  intro c sf rn rd s hc
  refine ⟨fun op => ⟨?bicImm, ?mvnImm⟩, fun op => ⟨?bicShift, ?mvnShift⟩⟩
  case bicImm => exact dpLogical_runs aluBic (immOperand op s) hc rfl
  case mvnImm => exact dpLogical_runs (rn := rn) aluMvn (immOperand op s) hc rfl
  case bicShift => exact dpLogical_runs aluBic (shiftOperand op s) hc rfl
  case mvnShift => exact dpLogical_runs (rn := rn) aluMvn (shiftOperand op s) hc rfl

/-- Settles O25: TST and TEQ are of the logical class and write no register. -/
theorem tstTeqResults : Obligations.TstTeqResults := by
  unfold Obligations.TstTeqResults
  intro c rn rd s hc
  refine ⟨fun op => ⟨?tstImm, ?teqImm⟩, fun op => ⟨?tstShift, ?teqShift⟩⟩
  case tstImm => exact dpLogical_runs aluAnd (immOperand op s) hc rfl
  case teqImm => exact dpLogical_runs aluEor (immOperand op s) hc rfl
  case tstShift => exact dpLogical_runs aluAnd (shiftOperand op s) hc rfl
  case teqShift => exact dpLogical_runs aluEor (shiftOperand op s) hc rfl

/-- Settles O28: CMP is SUB's ALU without a register write. -/
theorem cmpResults : Obligations.CmpResults := by
  unfold Obligations.CmpResults
  intro c rn rd s hc
  exact ⟨fun op => dpArithmetic_runs aluSub (immOperand op s) hc rfl (subFlags_eq ..),
    fun op => dpArithmetic_runs aluSub (shiftOperand op s) hc rfl (subFlags_eq ..)⟩

/-- Settles O29: the reverse forms swap the ALU's operands; the carry comes in at the exact sum or difference. -/
theorem reverseAndCarryResults : Obligations.ReverseAndCarryResults := by
  unfold Obligations.ReverseAndCarryResults
  intro c sf rn rd s hc
  refine ⟨fun op => ⟨?rsbImm, ?adcImm, ?sbcImm, ?rscImm⟩, fun op => ⟨?rsbShift, ?adcShift, ?sbcShift, ?rscShift⟩⟩
  case rsbImm => exact dpArithmetic_runs aluRsb (immOperand op s) hc rfl (subFlags_eq ..)
  case adcImm => exact dpArithmetic_runs aluAdc (immOperand op s) hc rfl (adcFlags_eq ..)
  case sbcImm => exact dpArithmetic_runs aluSbc (immOperand op s) hc rfl (sbcFlags_eq ..)
  case rscImm => exact dpArithmetic_runs aluRsc (immOperand op s) hc rfl (sbcFlags_eq ..)
  case rsbShift => exact dpArithmetic_runs aluRsb (shiftOperand op s) hc rfl (subFlags_eq ..)
  case adcShift => exact dpArithmetic_runs aluAdc (shiftOperand op s) hc rfl (adcFlags_eq ..)
  case sbcShift => exact dpArithmetic_runs aluSbc (shiftOperand op s) hc rfl (sbcFlags_eq ..)
  case rscShift => exact dpArithmetic_runs aluRsc (shiftOperand op s) hc rfl (sbcFlags_eq ..)

/-- Settles O30: where they are implemented EOR is of the logical class, CMN is ADD's ALU without a register write. -/
theorem eorCmnResultsWhereImplemented : Obligations.EorCmnResultsWhereImplemented := by
  unfold Obligations.EorCmnResultsWhereImplemented
  intro c sf rn rd s hc himpl
  refine ⟨fun op => ⟨?eorImm, ?cmnImm⟩, fun op => ⟨?eorShift, ?cmnShift⟩⟩
  case eorImm => exact dpLogical_runs aluEor (immOperand op s) hc (unlisted_implement himpl _)
  case cmnImm => exact dpArithmetic_runs aluAdd (immOperand op s) hc (unlisted_implement himpl _) (addFlags_eq ..)
  case eorShift => exact dpLogical_runs aluEor (shiftOperand op s) hc (unlisted_implement himpl _)
  case cmnShift => exact dpArithmetic_runs aluAdd (shiftOperand op s) hc (unlisted_implement himpl _) (addFlags_eq ..)

/-! ## Status registers -/

theorem exec_mrs_implemented {c : Cond} {s : State} (hc : condPassed c s.cpsr = true) (himpl : s.cfg.unlisted = .implement)
    (r : Bool) (rd : Reg) :
    exec (.mrs c r rd) s = if decide (rd = Reg.pc) && decide (s.cfg.pcOperands = .refuse) then .refused .mrsPc
      else .next (s.writeReg rd (statusRead r s)) :=
  (unlisted_implement himpl _).trans (conditional_passed hc _)

/-- Settles O31: U9 decides between the write and the refusal. -/
theorem mrsReadsTheStatusRegister : Obligations.MrsReadsTheStatusRegister := by
  unfold Obligations.MrsReadsTheStatusRegister
  intro c r rd s hc himpl
  rw [exec_mrs_implemented hc himpl]
  refine ⟨fun h => ?written, fun hrd hpolicy => ?refused⟩
  case written =>
    rw [if_neg (by simpa using h)]
    rfl
  case refused => rw [if_pos (by simp [hrd, hpolicy])]

/-- The selected bytes, bit by bit (R187). -/
theorem mergeMasked_fieldMask_getLsbD (w v : Word) (mask : BitVec 4) {k : Nat} (hk : k < 32) :
    (mergeMasked w v (fieldMask mask)).getLsbD k = if mask.getLsbD (k / 8) then v.getLsbD k else w.getLsbD k := by
  rw [mergeMasked_getLsbD w v _ hk, fieldMask_getLsbD mask hk]

/-- Settles O32: both forms are one masked write. -/
theorem msrWritesTheSelectedBytes : Obligations.MsrWritesTheSelectedBytes := by
  unfold Obligations.MsrWritesTheSelectedBytes
  intro c r mask s hc i v hi
  have hexec : exec i s = .next (statusWrite r mask v s) := by
    obtain ⟨rm, rfl, rfl⟩ | ⟨op, rfl, rfl⟩ := hi <;> exact conditional_passed hc _
  refine ⟨_, hexec, ?_, ?_⟩
  · rintro rfl
    exact ⟨rfl, fun k hk => mergeMasked_fieldMask_getLsbD s.cpsr v mask hk⟩
  · rintro rfl
    exact ⟨rfl, fun k hk => mergeMasked_fieldMask_getLsbD s.spsr v mask hk⟩

end Sys2Proof.Machine
end

section
/-! Single transfers: the core's accesses over RAM (R80, R81), the base write-back (R201), and what LDR, LDRB, STR and STRB leave
(R202 to R205). -/
namespace Sys2Proof.Machine

/-! ## The core's accesses over RAM -/

theorem toNat_setWidth_word (a : Word) : (a.setWidth 64).toNat = a.toNat := by
  rw [BitVec.toNat_setWidth, Nat.mod_eq_of_lt (a.isLt.trans (by decide))]

theorem readBytes_four (m : List Host.Cell) (a : Nat) :
    readBytes m a 4 = (readByte m a).toNat + 256 * (readByte m (a + 1)).toNat + 65536 * (readByte m (a + 2)).toNat +
      16777216 * (readByte m (a + 3)).toNat := by
  simp only [readBytes, Nat.add_assoc, Nat.reduceAdd]
  omega

theorem readWord_ram {a : Word} {s : State} (h : RamWordAt a s) : readWord a s = .ok (ramWord a s, s) := by
  obtain ⟨r, hr, hram, hwf, hwidth⟩ := h
  have hread := ramReadIsFlat _ 32 s r (by decide) hr hram hwf hwidth
  rw [toNat_setWidth_word, readBytes_four] at hread
  simp only [readWord, hread]
  rw [BitVec.setWidth_ofNat_of_le (by decide)]
  rfl

theorem readByteBus_ram {a : Word} {s : State} (h : RamByteAt a s) : readByteBus a s = .ok (s.byteAt a.toNat, s) := by
  obtain ⟨r, hr, hram, hwf⟩ := h
  obtain ⟨hwidth, hpos⟩ := legalWidth_eq_bytes (Region.wf_legalWidth hwf)
  have hread := ramReadIsFlat _ 8 s r (by decide) hr hram hwf (by omega)
  rw [toNat_setWidth_word] at hread
  simp only [readByteBus, hread]
  simp [readBytes, State.byteAt]

/-- Byte `k` of a word, as the bus carries it. -/
theorem byte_setWidth_word (v : Word) {k : Nat} (hk : k < 4) :
    (v.setWidth 64).extractLsb' (8 * k) 8 = v.extractLsb' (8 * k) 8 := by
  apply BitVec.eq_of_getLsbD_eq
  intro j hj
  simp [BitVec.getLsbD_extractLsb', show 8 * k + j < 64 by omega]

theorem writeWord_ram {a : Word} {s : State} (hm : Memory.wf s.mem = true) (h : RamWordAt a s) (v : Word) :
    ∃ m', writeWord a v s = .ok { s with mem := m' } ∧ Memory.wf m' = true ∧
      BytesWritten s.mem m' (alignedWord a) 4 (v.setWidth 64) := by
  obtain ⟨r, hr, hram, hwf, hwidth⟩ := h
  have hwrite := busWrite_ram hm (d := 32) (by decide) hr hram hwf hwidth (v.setWidth 64)
  rwa [toNat_setWidth_word] at hwrite

theorem writeByteBus_ram {a : Word} {s : State} (hm : Memory.wf s.mem = true) (h : RamByteAt a s) (v : Byte) :
    ∃ m', writeByteBus a v s = .ok { s with mem := m' } ∧ BytesWritten s.mem m' a.toNat 1 (v.setWidth 64) := by
  obtain ⟨r, hr, hram, hwf⟩ := h
  obtain ⟨hwidth, hpos⟩ := legalWidth_eq_bytes (Region.wf_legalWidth hwf)
  obtain ⟨m', hwrite, -, hbytes⟩ := busWrite_ram hm (d := 8) (by decide) hr hram hwf (by omega) (v.setWidth 64)
  refine ⟨m', hwrite, ?_⟩
  rwa [toNat_setWidth_word, Nat.div_self (by decide), Nat.div_one, Nat.mul_one] at hbytes

/-! ## Addresses and refused combinations -/

/-- Settles O33: the four cases of P and U. -/
theorem singleTransferAddress : Obligations.SingleTransferAddress := by
  unfold Obligations.SingleTransferAddress
  intro m s base moved
  refine ⟨fun hp => ?_, fun hp => ?_, ?_, address_writeback_iff m s⟩
  · simp only [address, hp, if_true]
    rfl
  · simp only [address, hp]
    rfl
  · simp only [address]
    split <;> rfl

theorem addressRefusal_writeback {m : LsOperand} {s : State} (hw : WritesBack m) (h : m.rd = m.rn) :
    addressRefusal m s = some .writebackRdEqRn := by
  simp [addressRefusal, (address_writeback_iff m s).2 hw, h]

theorem addressRefusal_pc {m : LsOperand} {s : State} (hw : WritesBack m) (hne : m.rd ≠ m.rn) (hpc : m.rn = Reg.pc)
    (hpolicy : s.cfg.pcOperands = .refuse) : addressRefusal m s = some .baseIsPc := by
  simp only [addressRefusal, (address_writeback_iff m s).2 hw, decide_eq_false hne, decide_eq_true hpc,
    decide_eq_true hpolicy]
  rfl

theorem addressRefusal_defined {m : LsOperand} {s : State} (h : SingleDefined m s) : addressRefusal m s = none := by
  obtain ⟨hrd, hpc⟩ := h
  simp only [addressRefusal]
  rw [if_neg, if_neg]
  · simpa [address_writeback_iff, and_assoc] using hpc
  · simpa [address_writeback_iff] using hrd

theorem multipleRefusal_inList {m : LsmOperand} {s : State} (hw : m.w = true) (h : m.list.getLsbD m.rn.val = true) :
    multipleRefusal m s = some .baseInList := by
  rw [multipleRefusal, if_pos (by rw [hw, h]; rfl)]

theorem multipleRefusal_pc {m : LsmOperand} {s : State} (hlist : ¬(m.w = true ∧ m.list.getLsbD m.rn.val = true))
    (hpc : m.rn = Reg.pc) (hpolicy : s.cfg.pcOperands = .refuse) : multipleRefusal m s = some .baseIsPc := by
  rw [multipleRefusal, if_neg (by simpa only [Bool.and_eq_true] using hlist), decide_eq_true hpc, decide_eq_true hpolicy]
  rfl

theorem multipleRefusal_defined {m : LsmOperand} {s : State} (h : MultipleDefined m s) : multipleRefusal m s = none := by
  obtain ⟨hlist, hpc⟩ := h
  rw [multipleRefusal, if_neg (by simpa only [Bool.and_eq_true] using hlist),
    if_neg (by simpa only [Bool.and_eq_true, decide_eq_true_eq] using hpc)]

section
variable {c : Cond} {s : State} (hc : condPassed c s.cpsr = true)
include hc

theorem singleTransfer_refused {m : LsOperand} {q : Refusal} (h : addressRefusal m s = some q)
    (body : Address → Except Fault State) : singleTransfer c m s body = .refused q := by
  simp only [singleTransfer, conditional_passed hc, h]

theorem singleTransfer_defined {m : LsOperand} (h : SingleDefined m s) (body : Address → Except Fault State) :
    singleTransfer c m s body = ofBus (body (address m s)) := by
  simp only [singleTransfer, conditional_passed hc, addressRefusal_defined h]

theorem multipleTransfer_refused {m : LsmOperand} {q : Refusal} (h : multipleRefusal m s = some q)
    (body : Except Fault State) : multipleTransfer c m s body = .refused q := by
  simp only [multipleTransfer, conditional_passed hc, h]

theorem multipleTransfer_defined {m : LsmOperand} (h : MultipleDefined m s) (body : Except Fault State) :
    multipleTransfer c m s body = ofBus body := by
  simp only [multipleTransfer, conditional_passed hc, multipleRefusal_defined h]

/-- A refused single transfer is refused for all four instructions. -/
theorem exec_single_refused {m : LsOperand} {q : Refusal} (h : addressRefusal m s = some q) :
    exec (.ldr c m) s = .refused q ∧ exec (.str c m) s = .refused q ∧
      (s.cfg.unlisted = .implement → exec (.ldrb c m) s = .refused q ∧ exec (.strb c m) s = .refused q) := by
  have hrefused := singleTransfer_refused hc h
  refine ⟨?_, ?_, fun himpl => ⟨(unlisted_implement himpl _).trans (hrefused _),
    (unlisted_implement himpl _).trans (hrefused _)⟩⟩
  · show execLdr c m s = _
    exact hrefused _
  · show execStr c m s = _
    exact hrefused _

theorem exec_multiple_refused {m : LsmOperand} {q : Refusal} (h : multipleRefusal m s = some q) :
    exec (.ldm c m) s = .refused q ∧ exec (.stm c m) s = .refused q :=
  ⟨multipleTransfer_refused hc h _, multipleTransfer_refused hc h _⟩

end

/-- Settles O38: each combination by the refusal it gives. -/
theorem refusedCombinations : Obligations.RefusedCombinations := by
  unfold Obligations.RefusedCombinations
  intro c m q s hc
  exact ⟨fun hw hrd => exec_single_refused hc (addressRefusal_writeback hw hrd),
    fun hw hne hpc hpolicy => exec_single_refused hc (addressRefusal_pc hw hne hpc hpolicy),
    fun hw hlist => exec_multiple_refused hc (multipleRefusal_inList hw hlist),
    fun hlist hpc hpolicy => exec_multiple_refused hc (multipleRefusal_pc hlist hpc hpolicy)⟩

/-! ## The register writes of a single transfer -/

/-- States that agree in every field are equal. -/
theorem state_ext {s t : State} (hregs : s.regs = t.regs) (hjumped : s.jumped = t.jumped) (hcpsr : s.cpsr = t.cpsr)
    (hspsr : s.spsr = t.spsr) (hcoproc : s.coproc = t.coproc) (hmem : s.mem = t.mem) (hperiph : s.periph = t.periph)
    (htick : s.busTick = t.busTick) (hstop : s.stop = t.stop) (hreq : s.haltReq = t.haltReq) (hcfg : s.cfg = t.cfg) :
    s = t := by
  cases s
  cases t
  simp_all

theorem baseUpdate_get (m : LsOperand) (s u : State) (i : Reg) :
    (baseUpdate m (address m s) u).regs.get i =
      if WritesBack m ∧ i = m.rn then (address m s).newBase else u.regs.get i := by
  simp only [baseUpdate, address_writeback_iff, ite_and]
  split
  · exact writeReg_get ..
  · rfl

theorem baseUpdate_jumped (m : LsOperand) (s u : State) :
    (baseUpdate m (address m s) u).jumped = (u.jumped || decide (WritesBack m ∧ m.rn = Reg.pc)) := by
  have hwb : (address m s).writeback = decide (WritesBack m) := by
    rw [Bool.eq_iff_iff, decide_eq_true_eq, address_writeback_iff]
  rw [baseUpdate_frame, Bool.decide_and, hwb]

theorem writeLoaded_get (rd : Reg) (v : Word) (s : State) (i : Reg) :
    (writeLoaded rd v s).regs.get i =
      if i = rd then (if rd = Reg.pc then v &&& 0xfffffffe else v) else s.regs.get i := by
  by_cases hrd : rd = Reg.pc
  · simp only [writeLoaded, hrd, writePcInterworking]
    exact writeReg_get ..
  · simp only [writeLoaded, hrd]
    exact writeReg_get ..

theorem writeLoaded_jumped (rd : Reg) (v : Word) (s : State) :
    (writeLoaded rd v s).jumped = (s.jumped || decide (rd = Reg.pc)) := by
  rw [writeLoaded_frame]

/-! ## LDR and LDRB -/

theorem ldr_post {m : LsOperand} {s u : State} (hm : SingleDefined m s) (h : ReadsOnly s u) (data : Word) :
    LdrPost m data s u (writeLoaded m.rd (rotateLoaded (address m s).addr data) (baseUpdate m (address m s) u)) where
  value hrd := by
    rw [writeLoaded_get, if_pos rfl, if_neg hrd, writeLoaded_cpsr, if_neg hrd, baseUpdate_cpsr, h.cpsr]
    exact ⟨rfl, rfl⟩
  jump hrd := by
    rw [writeLoaded_get, if_pos hrd.symm, if_pos hrd, writeLoaded_cpsr, if_pos hrd, baseUpdate_cpsr, h.cpsr]
    exact ⟨rfl, flagT_withT .., fun k hk => withT_getLsbD_of_ne _ _ hk⟩
  base hw := by
    rw [writeLoaded_get, if_neg fun heq => hm.1 ⟨hw, heq.symm⟩, baseUpdate_get, if_pos ⟨hw, rfl⟩]
  otherRegs i hrd hrn := by
    rw [writeLoaded_get, if_neg hrd, baseUpdate_get, if_neg hrn, h.regs]
  jumped := by
    rw [writeLoaded_jumped, baseUpdate_jumped, h.jumped, Bool.or_assoc, Bool.decide_or, Bool.or_comm (decide (m.rd = _))]
  others := by
    apply state_ext <;> simp [h.spsr, h.coproc, h.mem, h.stop, h.haltReq, h.cfg]

theorem exec_ldr {c : Cond} {m : LsOperand} {s : State} (hc : condPassed c s.cpsr = true) (hm : SingleDefined m s) :
    exec (.ldr c m) s = ofBus (match readWord (address m s).addr s with
      | .error e => .error e
      | .ok (data, t) => .ok (writeLoaded m.rd (rotateLoaded (address m s).addr data) (baseUpdate m (address m s) t))) := by
  show execLdr c m s = _
  exact singleTransfer_defined hc hm _

theorem exec_ldr_ok {c : Cond} {m : LsOperand} {s u : State} {data : Word} (hc : condPassed c s.cpsr = true)
    (hm : SingleDefined m s) (h : readWord (address m s).addr s = .ok (data, u)) :
    ∃ t, exec (.ldr c m) s = .next t ∧ LdrPost m data s u t :=
  ⟨_, by rw [exec_ldr hc hm, h]; rfl, ldr_post hm (readWord_readsOnly h) data⟩

/-- Settles O34: what the read leaves, then the base and the destination. -/
theorem ldrLoadsTheRotatedWord : Obligations.LdrLoadsTheRotatedWord := by
  unfold Obligations.LdrLoadsTheRotatedWord
  intro c m s hc hm
  refine ⟨fun hram => exec_ldr_ok hc hm (readWord_ram hram), fun e he => ?_, fun data u h => exec_ldr_ok hc hm h⟩
  rw [exec_ldr hc hm, he]
  rfl

theorem ldrb_post {m : LsOperand} {s u : State} (hm : SingleDefined m s) (h : ReadsOnly s u) (data : Byte) :
    LdrbPost m data s u ((baseUpdate m (address m s) u).writeReg m.rd (data.setWidth 32)) where
  value := by
    rw [writeReg_get, if_pos rfl, BitVec.toNat_setWidth, Nat.mod_eq_of_lt (data.isLt.trans (by decide))]
  base hw := by
    rw [writeReg_get, if_neg fun heq => hm.1 ⟨hw, heq.symm⟩, baseUpdate_get, if_pos ⟨hw, rfl⟩]
  otherRegs i hrd hrn := by
    rw [writeReg_get, if_neg hrd, baseUpdate_get, if_neg hrn, h.regs]
  jumped := by
    rw [writeReg_jumped, baseUpdate_jumped, h.jumped, Bool.or_assoc, Bool.decide_or, Bool.or_comm (decide (m.rd = _))]
  others := by
    apply state_ext <;> simp [h.cpsr, h.spsr, h.coproc, h.mem, h.stop, h.haltReq, h.cfg]

theorem exec_ldrb {c : Cond} {m : LsOperand} {s : State} (hc : condPassed c s.cpsr = true)
    (himpl : s.cfg.unlisted = .implement) (hm : SingleDefined m s) :
    exec (.ldrb c m) s = ofBus (match readByteBus (address m s).addr s with
      | .error e => .error e
      | .ok (v, t) => .ok ((baseUpdate m (address m s) t).writeReg m.rd (v.setWidth 32))) :=
  (unlisted_implement himpl _).trans (singleTransfer_defined hc hm _)

theorem exec_ldrb_ok {c : Cond} {m : LsOperand} {s u : State} {data : Byte} (hc : condPassed c s.cpsr = true)
    (himpl : s.cfg.unlisted = .implement) (hm : SingleDefined m s)
    (h : readByteBus (address m s).addr s = .ok (data, u)) :
    ∃ t, exec (.ldrb c m) s = .next t ∧ LdrbPost m data s u t :=
  ⟨_, by rw [exec_ldrb hc himpl hm, h]; rfl, ldrb_post hm (readByteBus_readsOnly h) data⟩

/-- Settles O35: what the read leaves, then the base and the destination. -/
theorem ldrbLoadsTheByteWhereImplemented : Obligations.LdrbLoadsTheByteWhereImplemented := by
  unfold Obligations.LdrbLoadsTheByteWhereImplemented
  intro c m s hc himpl hm
  refine ⟨fun hram => exec_ldrb_ok hc himpl hm (readByteBus_ram hram), fun e he => ?_,
    fun data u h => exec_ldrb_ok hc himpl hm h⟩
  rw [exec_ldrb hc himpl hm, he]
  rfl

/-! ## STR and STRB -/

section
variable {c : Cond} {m : LsOperand} {s : State} (hc : condPassed c s.cpsr = true) (hm : SingleDefined m s)
include hc hm

theorem exec_str : exec (.str c m) s = ofBus (match writeWord (address m s).addr (s.readReg m.rd) s with
    | .error e => .error e
    | .ok t => .ok (baseUpdate m (address m s) t)) := by
  show execStr c m s = _
  exact singleTransfer_defined hc hm _

theorem exec_str_ok {u : State} (h : writeWord (address m s).addr (s.readReg m.rd) s = .ok u) :
    exec (.str c m) s = .next (baseUpdate m (address m s) u) := by
  rw [exec_str hc hm, h]
  rfl

theorem exec_strb (himpl : s.cfg.unlisted = .implement) :
    exec (.strb c m) s =
      ofBus (match writeByteBus (address m s).addr ((s.readReg m.rd).setWidth 8) s with
        | .error e => .error e
        | .ok t => .ok (baseUpdate m (address m s) t)) :=
  (unlisted_implement himpl _).trans (singleTransfer_defined hc hm _)

theorem exec_strb_ok (himpl : s.cfg.unlisted = .implement) {u : State}
    (h : writeByteBus (address m s).addr ((s.readReg m.rd).setWidth 8) s = .ok u) :
    exec (.strb c m) s = .next (baseUpdate m (address m s) u) := by
  rw [exec_strb hc hm himpl, h]
  rfl

end

/-- A store to RAM, then the base write-back: nothing else changes. -/
theorem baseUpdate_ram_post (m : LsOperand) (s : State) (mem' : List Host.Cell) :
    let t := baseUpdate m (address m s) { s with mem := mem' }
    (WritesBack m → t.regs.get m.rn = (address m s).newBase) ∧
      (∀ i, ¬(WritesBack m ∧ i = m.rn) → t.regs.get i = s.regs.get i) ∧
      t.jumped = (s.jumped || decide (WritesBack m ∧ m.rn = Reg.pc)) ∧
      t = { s with regs := t.regs, jumped := t.jumped, mem := t.mem } := by
  refine ⟨fun hw => ?_, fun i hi => ?_, baseUpdate_jumped .., ?_⟩
  · rw [baseUpdate_get, if_pos ⟨hw, rfl⟩]
  · rw [baseUpdate_get, if_neg hi]
  · apply state_ext <;> simp

/-- Settles O36: the word's bytes in RAM, then the base. -/
theorem strStoresTheWord : Obligations.StrStoresTheWord := by
  unfold Obligations.StrStoresTheWord
  intro c m s hc hm
  refine ⟨fun hmem hram => ?_, fun e he => ?_, fun u h => exec_str_ok hc hm h⟩
  · obtain ⟨mem', hwrite, -, hbytes⟩ := writeWord_ram hmem hram (s.readReg m.rd)
    refine ⟨_, exec_str_ok hc hm hwrite, fun k hk => ?_, fun x hx => ?_, baseUpdate_ram_post m s mem'⟩
    · rw [State.byteAt, baseUpdate_mem, hbytes, if_pos (by omega), Nat.add_sub_cancel_left, byte_setWidth_word _ hk]
    · rw [State.byteAt, baseUpdate_mem, hbytes, if_neg hx, State.byteAt]
  · rw [exec_str hc hm, he]
    rfl

/-- The low byte of a word, as the bus carries it. -/
theorem lowByte_setWidth (v : Word) : ((v.setWidth 8).setWidth 64).extractLsb' 0 8 = v.extractLsb' 0 8 := by
  apply BitVec.eq_of_getLsbD_eq
  intro j hj
  simp [hj, show j < 64 by omega]

/-- Settles O37: the byte in RAM, then the base. -/
theorem strbStoresTheByteWhereImplemented : Obligations.StrbStoresTheByteWhereImplemented := by
  unfold Obligations.StrbStoresTheByteWhereImplemented
  intro c m s hc himpl hm
  refine ⟨fun hmem hram => ?_, fun e he => ?_, fun u h => exec_strb_ok hc hm himpl h⟩
  · obtain ⟨mem', hwrite, hbytes⟩ := writeByteBus_ram hmem hram ((s.readReg m.rd).setWidth 8)
    refine ⟨_, exec_strb_ok hc hm himpl hwrite, ?_, fun x hx => ?_, baseUpdate_ram_post m s mem'⟩
    · rw [State.byteAt, baseUpdate_mem, hbytes, if_pos (by omega), Nat.sub_self, Nat.mul_zero, lowByte_setWidth]
    · rw [State.byteAt, baseUpdate_mem, hbytes, if_neg (by omega), State.byteAt]
  · rw [exec_strb hc hm himpl, he]
    rfl

end Sys2Proof.Machine
end

section
/-! Coprocessor accesses (R250 to R255), the classes that stop and failed conditions (R119, R160, R305, R306), and the order of
a step and of a stop (R304, R313, R320). -/
namespace Sys2Proof.Machine

/-! ## The composite id (R41, R250) -/

theorem toNat_setWidth_four (x : BitVec 3) : (x.setWidth 4).toNat = x.toNat := by
  rw [BitVec.toNat_setWidth, Nat.mod_eq_of_lt (x.isLt.trans (by decide))]

theorem cpId_toNat (d : CpOperand) : (cpId d).toNat = idNumber d.crn.toNat d.opcode1.toNat d.crm.toNat d.opcode2.toNat := by
  rw [cpId, compositeId_toNat, toNat_setWidth_four, toNat_setWidth_four, idNumber]

theorem cdpId_toNat (d : CdpOperand) :
    (cdpId d).toNat = idNumber d.crn.toNat d.opcode1.toNat d.crm.toNat d.opcode2.toNat := by
  rw [cdpId, compositeId_toNat, toNat_setWidth_four, idNumber]

/-! ## Coprocessor registers (R42, R43) -/

theorem getCReg_of_bank {cp : Fin 16} {s : State} {b : Bank} (hb : s.coproc.get cp = some b) (id : BitVec 16) :
    getCReg cp id s = bankGet b id := by
  rw [getCReg, hb]

/-- A registered id has a bank in its slot. -/
theorem bank_of_validCReg {cp : Fin 16} {id : BitVec 16} {s : State} (h : validCReg cp id s = true) :
    ∃ b, s.coproc.get cp = some b := by
  cases hb : s.coproc.get cp with
  | none => simp [validCReg, getCReg, hb] at h
  | some b => exact ⟨b, rfl⟩

theorem setBank_get (cp : Fin 16) (b : Bank) (s : State) (j : Fin 16) :
    (setBank cp b s).coproc.get j = if j = cp then some b else s.coproc.get j := by
  simp only [setBank, get_set, Fin.ext_iff]

theorem setCReg_eq {cp : Fin 16} {s : State} {b : Bank} (hb : s.coproc.get cp = some b) (id : BitVec 16) (v : Word) :
    setCReg cp id v s = setBank cp (bankSet b id v) s := by
  rw [setCReg, hb]

/-- R43: a registered id reads back what was stored, and every other id what it held. -/
theorem getCReg_setCReg {cp : Fin 16} {id : BitVec 16} {s : State} (h : validCReg cp id s = true) (v : Word)
    (cp' : Fin 16) (id' : BitVec 16) :
    getCReg cp' id' (setCReg cp id v s) = if cp' = cp ∧ id' = id then some v else getCReg cp' id' s := by
  obtain ⟨b, hb⟩ := bank_of_validCReg h
  rw [validCReg, getCReg_of_bank hb] at h
  obtain ⟨old, hold⟩ := Option.isSome_iff_exists.1 h
  by_cases hcp : cp' = cp
  · subst hcp
    rw [getCReg_of_bank (by rw [setCReg_eq hb, setBank_get, if_pos rfl]), bankGet_bankSet, getCReg_of_bank hb]
    by_cases hid : id' = id
    · rw [if_pos hid, if_pos ⟨rfl, hid⟩, hid, hold, Option.map_some]
    · rw [if_neg hid, if_neg fun heq => hid heq.2]
  · rw [if_neg fun heq => hcp heq.1, getCReg, setCReg_eq hb, setBank_get, if_neg hcp, ← getCReg]

/-- Another CDP_EFFECT gives each registered id its value of the free function (log 10). -/
theorem bankGet_cdpBank_other {d : CdpOperand} {s : State} (h : s.cfg.cdp = .other) (b : Bank) (id : BitVec 16) :
    bankGet (cdpBank d s b) id = if (bankGet b id).isSome then
      some (Config.cdpValue d.cp d.opcode1 d.crd d.crn d.crm d.opcode2 b id) else none := by
  simp only [cdpBank, h]
  generalize hf : Config.cdpValue d.cp d.opcode1 d.crd d.crn d.crm d.opcode2 b = f
  clear hf
  induction b with
  | nil => rfl
  | cons e rest ih =>
    obtain ⟨k, v⟩ := e
    by_cases hk : k = id
    · simp [bankGet, hk]
    · simpa [bankGet, hk] using ih

/-! ## Coprocessor accesses -/

section
variable {c : Cond} {s : State} (hc : condPassed c s.cpsr = true)
include hc

theorem coprocessorAccess_unregistered {cp : Fin 16} {id : BitVec 16} (h : validCReg cp id s = false)
    (body : Word → State) : coprocessorAccess c cp id s body = .next (undefinedEntry s) := by
  have hnone : getCReg cp id s = none := by simpa [validCReg] using h
  simp only [coprocessorAccess, conditional_passed hc, hnone]
  rfl

theorem coprocessorAccess_registered {cp : Fin 16} {id : BitVec 16} {v : Word} (h : getCReg cp id s = some v)
    (body : Word → State) : coprocessorAccess c cp id s body = .next (body v) := by
  simp only [coprocessorAccess, conditional_passed hc, h]

theorem exec_cdp {d : CdpOperand} (h : validCReg d.cp (cdpId d) s = true) : exec (.cdp c d) s = .next (cdpEffect d s) := by
  obtain ⟨v, hv⟩ := Option.isSome_iff_exists.1 h
  show execCdp c d s = _
  exact coprocessorAccess_registered hc hv _

theorem exec_mcr {d : CpOperand} (h : validCReg d.cp (cpId d) s = true) :
    exec (.mcr c d) s = .next (setCReg d.cp (cpId d) (s.readReg d.rd) s) := by
  obtain ⟨v, hv⟩ := Option.isSome_iff_exists.1 h
  show execMcr c d s = _
  exact coprocessorAccess_registered hc hv _

theorem exec_mrc {d : CpOperand} {v : Word} (h : getCReg d.cp (cpId d) s = some v) :
    exec (.mrc c d) s =
      .next (if d.rd = Reg.pc then { s with cpsr := withTop s.cpsr (mrcFlags s v) } else s.writeReg d.rd v) := by
  show execMrc c d s = _
  exact coprocessorAccess_registered hc h _

end

/-- Settles O43: an unregistered id is none of the bank's. -/
theorem undefinedExceptionCauses : Obligations.UndefinedExceptionCauses := by
  unfold Obligations.UndefinedExceptionCauses
  refine ⟨cpId_toNat, cdpId_toNat, fun s => ⟨rfl, fun c hc => ⟨fun d hd => ?_, fun d hd => ⟨?_, ?_⟩⟩⟩⟩
  · show execCdp c d s = _
    exact coprocessorAccess_unregistered hc hd _
  · show execMcr c d s = _
    exact coprocessorAccess_unregistered hc hd _
  · show execMrc c d s = _
    exact coprocessorAccess_unregistered hc hd _

/-- Settles O44: read after write in the slot's bank. -/
theorem mcrWritesTheRegister : Obligations.McrWritesTheRegister := by
  unfold Obligations.McrWritesTheRegister
  refine ⟨cpId_toNat, fun c d s hc hd => ⟨_, exec_mcr hc hd, ?_, fun cp id hne => ?_, ?_⟩⟩
  · rw [getCReg_setCReg hd, if_pos ⟨rfl, rfl⟩]
  · rw [getCReg_setCReg hd, if_neg hne]
  · apply state_ext <;> simp

/-- Settles O45: the value into Rd, or four flag bits into CPSR. -/
theorem mrcReadsTheRegister : Obligations.MrcReadsTheRegister := by
  unfold Obligations.MrcReadsTheRegister
  refine ⟨cpId_toNat, fun c d s v hc hv => ⟨fun hrd => ?_, fun hrd => ⟨_, (exec_mrc hc hv).trans (by rw [if_pos hrd]), rfl,
    fun k hk => ?_, fun hflags k hk => ?_, fun hflags k hk => ?_⟩⟩⟩
  · rw [exec_mrc hc hv, if_neg hrd]
  · rw [withTop_getLsbD _ _ (by omega), if_pos hk]
  · by_cases hk32 : k < 32
    · rw [withTop_getLsbD _ _ hk32, if_neg (by omega), mrcFlags, hflags]
      simp [show k - 28 < 4 by omega, show 28 + (k - 28) = k by omega]
    · rw [BitVec.getLsbD_of_ge _ _ (by omega), BitVec.getLsbD_of_ge _ _ (by omega)]
  · rw [withTop_getLsbD _ _ (by omega), if_neg (by omega), Nat.add_sub_cancel_left, mrcFlags, hflags]

/-- Settles O46: the effect on the slot's bank, value by value. -/
theorem cdpEffectHolds : Obligations.CdpEffect := by
  unfold Obligations.CdpEffect
  refine ⟨cdpId_toNat, fun c d s hc hd => ⟨fun hid => ?_, fun hother => ?_⟩⟩
  · rw [exec_cdp hc hd, cdpEffect_of_identity d hid]
  · obtain ⟨b, hb⟩ := bank_of_validCReg hd
    have heffect : cdpEffect d s = setBank d.cp (cdpBank d s b) s := by rw [cdpEffect, hb]
    refine ⟨_, b, (exec_cdp hc hd).trans (by rw [heffect]), hb, fun id => ?_, fun cp hcp => ?_, rfl⟩
    · rw [getCReg_of_bank (by rw [setBank_get, if_pos rfl]), bankGet_cdpBank_other hother]
    · rw [setBank_get, if_neg hcp]

/-! ## Failed conditions and classes that stop -/

/-- Settles O47: every instruction with a condition does its work under it. -/
theorem failedConditionChangesNothing : Obligations.FailedConditionChangesNothing := by
  unfold Obligations.FailedConditionChangesNothing
  intro i c s hi hc hunimpl hnow
  have himpl : isUnlisted i = true → s.cfg.unlisted = .implement := by
    intro hlist
    cases hpolicy : s.cfg.unlisted with
    | implement => rfl
    | refuse => simp [unsupportedNow, hlist, hpolicy] at hnow
  cases i
  case blx | undefinedNv => cases hi
  case dpRegisterShift | multiplyExtendedSpace | lsRegisterOffset => cases hunimpl
  case dpImmediateEmptySlot | lsmSBit | ldcStc | swi => cases hnow
  case mrs | eorImm | eorShift | cmnImm | cmnShift | ldrb | strb =>
    cases hi
    exact (unlisted_implement (himpl rfl) _).trans (conditional_failed hc _)
  all_goals
    cases hi
    exact (conditional_failed hc _ :)

/-- Settles O48: the three rows, in every state. -/
theorem unimplementedSpacesAreFatal : Obligations.UnimplementedSpacesAreFatal := by
  unfold Obligations.UnimplementedSpacesAreFatal
  intro i s h
  cases i
  case dpRegisterShift | multiplyExtendedSpace | lsRegisterOffset => rfl
  all_goals cases h

/-- R306, by ERROR_POLICY. -/
theorem raiseUnsupported_policy (s : State) :
    (s.cfg.errorPolicy = .abort → raiseUnsupported s = .fault .unsupportedEncoding) ∧
      (s.cfg.errorPolicy = .carryOn → raiseUnsupported s = .next s) :=
  ⟨fun h => by rw [raiseUnsupported, h], fun h => by rw [raiseUnsupported, h]⟩

theorem unlisted_refuse {s : State} (h : s.cfg.unlisted = .refuse) (body : Result) :
    unlisted s body = raiseUnsupported s := by
  rw [unlisted, h]

/-- Settles O49: the unsupported rows, and the unlisted ones where they are refused. -/
theorem unsupportedEncodingsFollowThePolicy : Obligations.UnsupportedEncodingsFollowThePolicy := by
  unfold Obligations.UnsupportedEncodingsFollowThePolicy
  intro i s h
  suffices hexec : exec i s = raiseUnsupported s by
    rw [hexec]
    exact raiseUnsupported_policy s
  cases i
  case dpImmediateEmptySlot | lsmSBit | ldcStc | swi => rfl
  case mrs | eorImm | eorShift | cmnImm | cmnShift | ldrb | strb =>
    exact unlisted_refuse (by simpa [unsupportedNow, isUnsupported, isUnlisted] using h) _
  all_goals cases h

/-! ## The step (R313, R320) -/

theorem nextPC_storedPc (s : State) : (nextPC s).storedPc = s.nextFetchAddr := by
  rw [State.storedPc, nextPC_regs, get_set]
  exact if_pos rfl

theorem step_running {s : State} (hrun : s.stop = .running) (hreq : s.haltReq = false) : step s = stepRunning s := by
  simp [step, hrun, hreq]

/-- The Thumb check of a ready core passes. -/
theorem thumbCheck_ready {s : State} (h : Ready s) :
    ¬(flagT (nextPC s).cpsr && decide ((nextPC s).cfg.thumbPolicy = .refuse)) = true := by
  obtain ⟨-, -, hflag | hpolicy⟩ := h
  · simp [hflag]
  · simp [hpolicy]

theorem fetch_nextPC (s : State) : fetch (nextPC s) = readWord s.nextFetchAddr (nextPC s) := by
  rw [fetch, nextPC_storedPc]

section
variable {s : State} (h : Ready s)
include h

/-- A ready core executes what it fetched. -/
theorem step_of_fetched {w : Word} {u : State} (hread : readWord s.nextFetchAddr (nextPC s) = .ok (w, u)) :
    step s = exec (decode w) u := by
  obtain ⟨hrun, hreq, -⟩ := id h
  rw [step_running hrun hreq, stepRunning]
  simp only [thumbCheck_ready h, fetch_nextPC, hread]
  rfl

/-- A ready core whose fetch fails stops with that fault. -/
theorem step_of_fetch_error {e : Fault} (hread : readWord s.nextFetchAddr (nextPC s) = .error e) : step s = .fault e := by
  obtain ⟨hrun, hreq, -⟩ := id h
  rw [step_running hrun hreq, stepRunning]
  simp only [thumbCheck_ready h, fetch_nextPC, hread]
  rfl

end

/-- Settles O50: over RAM the fetched word is the four bytes'. -/
theorem stepRunsTheDecodedInstruction : Obligations.StepRunsTheDecodedInstruction := by
  unfold Obligations.StepRunsTheDecodedInstruction
  intro s hready
  exact ⟨fun w u hread => step_of_fetched hready hread,
    fun hram => step_of_fetched hready (readWord_ram (s := nextPC s) hram)⟩

/-- Settles O51: the tests of a step in their order. -/
theorem stepStopsInTheGivenOrder : Obligations.StepStopsInTheGivenOrder := by
  unfold Obligations.StepStopsInTheGivenOrder
  intro s
  refine ⟨fun hstop => ?_, fun hrun hreq => ?_, fun hrun hreq hflag hpolicy => ?_,
    fun e hready => step_of_fetch_error hready⟩
  · exact step_setStop hstop s
  · simp [step, hrun, hreq]
  · rw [step_running hrun hreq, stepRunning, nextPC_cpsr, nextPC_cfg, if_pos (by rw [hflag, hpolicy]; rfl)]

/-! ## Stops (R304, R310) -/

theorem stopCore_stoppedFrom {c : StopStatus} (hc : c ≠ .running) (e : StopEvent) (s : State) :
    StoppedFrom s (stopCore e c s) c where
  status := rfl
  stays := step_stopCore hc e s
  cfg := rfl
  ids := stopCore_registeredIds e c s
  halt := rfl
  wf := stopCore_wf

/-- Settles O60: each stop is one of `stopCore`. -/
theorem fatalErrorsStopTheCore : Obligations.FatalErrorsStopTheCore := by
  unfold Obligations.FatalErrorsStopTheCore
  refine ⟨fun s k h => ?_, fun s q h => ?_, fun s t h => hostStep_next h,
    fun a d s => ⟨fun x t h => hostRead_ok h, fun k h => ?_⟩,
    fun a d v s => ⟨fun t h => hostWrite_ok h, fun k h => ?_⟩, fun a s => ⟨fun v => rfl, fun v => rfl, fun v => rfl⟩⟩
  · rw [hostStep_fault h]
    exact stopCore_stoppedFrom (by nofun) ..
  · rw [hostStep_refused h]
    exact stopCore_stoppedFrom (by nofun) ..
  · exact ⟨_, hostRead_error h, stopCore_stoppedFrom (by nofun) ..⟩
  · exact ⟨_, hostWrite_error h, stopCore_stoppedFrom (by nofun) ..⟩

end Sys2Proof.Machine
end

section
/-! The words of R125, bytes and words (R78, R100), the register file, reset and the Undefined entry (R22 to R26, R49, R302,
R340). -/
namespace Sys2Proof.Machine

/-! ## Words and bytes -/

/-- Settles O4: the decoder run on the eight words. -/
theorem wordsOfTheSpecDecode : Obligations.WordsOfTheSpecDecode := by
  unfold Obligations.WordsOfTheSpecDecode
  decide

theorem wordOfBytes_eq_append (b0 b1 b2 b3 : Byte) : wordOfBytes b0 b1 b2 b3 = b3 ++ b2 ++ b1 ++ b0 := by
  apply BitVec.eq_of_toNat_eq
  rw [BitVec.toNat_append, ← Nat.shiftLeft_add_eq_or_of_lt b0.isLt, BitVec.toNat_append,
    ← Nat.shiftLeft_add_eq_or_of_lt b1.isLt, BitVec.toNat_append, ← Nat.shiftLeft_add_eq_or_of_lt b2.isLt, wordOfBytes,
    BitVec.toNat_ofNat]
  simp only [Nat.shiftLeft_eq]
  omega

/-- The bytes of a word make the word. -/
theorem wordOfBytes_bytes (w : Word) :
    wordOfBytes (w.extractLsb' 0 8) (w.extractLsb' 8 8) (w.extractLsb' 16 8) (w.extractLsb' 24 8) = w := by
  apply BitVec.eq_of_toNat_eq
  simp only [wordOfBytes, BitVec.extractLsb'_toNat, BitVec.toNat_ofNat, Nat.shiftRight_eq_div_pow]
  omega

/-- Settles O5: the word is the four bytes, the last one highest. -/
theorem bytesHoldTheWordLittleEndian : Obligations.BytesHoldTheWordLittleEndian := by
  unfold Obligations.BytesHoldTheWordLittleEndian
  refine ⟨fun w rest => ?_, fun l hl => ?_, fun b0 b1 b2 b3 k hk => ?_⟩
  · simp only [bytesOfWord, List.cons_append, List.nil_append, decodeBytes, wordOfBytes_bytes]
  · match l with
    | [] | [_] | [_, _] | [_, _, _] => rfl
    | _ :: _ :: _ :: _ :: _ =>
      simp only [List.length_cons] at hl
      omega
  · simp only [wordOfBytes_eq_append, BitVec.getLsbD_append]
    refine ⟨?_, ?_, ?_, ?_⟩
    · rw [if_pos hk]
    · rw [if_neg (by omega), if_pos (by omega), Nat.add_sub_cancel_left]
    · rw [if_neg (by omega), if_neg (by omega), if_pos (by omega), show 16 + k - 8 - 8 = k by omega]
    · rw [if_neg (by omega), if_neg (by omega), if_neg (by omega), show 24 + k - 8 - 8 - 8 = k by omega]

/-! ## Registers -/

/-- Settles O6: register 15 by its bias, the others as stored. -/
theorem registerReadHasPcBias : Obligations.RegisterReadHasPcBias := by
  unfold Obligations.RegisterReadHasPcBias
  intro s i
  refine ⟨readReg_ne_pc s i, ?_, ?_⟩
  · rw [readReg_pc, BitVec.toNat_add]
    rfl
  · rw [hostGetReg, dif_pos i.isLt]

/-- Settles O7: the write of one register. -/
theorem registerWriteSetsJumpedForPc : Obligations.RegisterWriteSetsJumpedForPc := by
  unfold Obligations.RegisterWriteSetsJumpedForPc
  intro s i v
  refine ⟨_, by rw [hostSetReg, dif_pos i.isLt], rfl, ?_, fun j hj => ?_, rfl, rfl⟩
  · rw [writeReg_get, if_pos rfl, BitVec.toNat_ofNat]
  · rw [writeReg_get, if_neg hj]

/-- A register other than 15 is not the one in place 15. -/
theorem val_ne_of_ne_pc {i : Reg} (h : i ≠ Reg.pc) : i.val ≠ 15 :=
  fun heq => h (Fin.ext heq)

/-- Settles O8: the stored PC becomes the next fetch address. -/
theorem nextPcAdvancesUnlessJumped : Obligations.NextPcAdvancesUnlessJumped := by
  unfold Obligations.NextPcAdvancesUnlessJumped
  intro s
  have hpc : (nextPC s).regs.get Reg.pc = s.nextFetchAddr := nextPC_storedPc s
  refine ⟨fun h => ?_, fun h => ?_, fun i hi => ?_, rfl, rfl⟩
  · rw [hpc, State.nextFetchAddr, h]
    rfl
  · rw [hpc, State.nextFetchAddr, h]
    rfl
  · rw [nextPC_regs, get_set, if_neg (val_ne_of_ne_pc hi)]

/-! ## Reset and the Undefined entry -/

/-- R340: bits 5 to 0 become T = 0 and M = 0x13. -/
theorem withResetMode_getLsbD (w : Word) (k : Nat) :
    (withResetMode w).getLsbD k = if k < 6 then (0x13 : Word).getLsbD k else w.getLsbD k := by
  by_cases hk : k < 32
  · have hmask : (0x3f : Word).getLsbD k = decide (k < 6) := by
      rw [show (0x3f : Word) = BitVec.ofNat 32 (2 ^ 6 - 1) from rfl, BitVec.getLsbD_ofNat, Nat.testBit_two_pow_sub_one]
      simp [hk]
    rw [withResetMode, BitVec.getLsbD_or, BitVec.getLsbD_and, BitVec.getLsbD_not, hmask]
    by_cases h6 : k < 6
    · simp only [h6, decide_true, Bool.not_true, Bool.and_false, Bool.false_or, if_true]
    · have hhigh : (0x13 : Word).getLsbD k = false := Nat.testBit_lt_two_pow (Nat.lt_of_lt_of_le (by decide)
        (Nat.pow_le_pow_right (by decide) (show 6 ≤ k by omega)))
      simp only [hk, h6, hhigh, decide_true, decide_false, Bool.not_false, Bool.and_true, Bool.or_false, if_false]
  · rw [if_neg (by omega), BitVec.getLsbD_of_ge _ _ (by omega), BitVec.getLsbD_of_ge _ _ (by omega)]

/-- Settles O9: what the reset entry writes, field by field. -/
theorem resetEntryWritesOnlyPcModeAndStatus : Obligations.ResetEntryWritesOnlyPcModeAndStatus := by
  unfold Obligations.ResetEntryWritesOnlyPcModeAndStatus
  intro s
  have hjumped : (hostReset s).jumped = true := by rw [hostReset_jumped, Bool.or_true]
  have hpc : (hostReset s).regs.get Reg.pc = 0 := by
    rw [hostReset_regs, get_set]
    exact if_pos rfl
  refine ⟨hpc, hjumped, rfl, ?_, ?_, fun k hk => ?_, fun i hi => ?_, ?_, ?_⟩
  · apply BitVec.eq_of_getLsbD_eq
    intro k hk
    rw [hostReset_cpsr, fieldM, BitVec.getLsbD_extractLsb', decide_eq_true hk, Bool.true_and, Nat.zero_add,
      withResetMode_getLsbD, if_pos (by omega)]
    rfl
  · rw [hostReset_cpsr, flagT, withResetMode_getLsbD, if_pos (by decide)]
    rfl
  · rw [hostReset_cpsr, withResetMode_getLsbD, if_neg (by omega)]
  · rw [hostReset_regs, get_set, if_neg (val_ne_of_ne_pc hi)]
  · rw [State.nextFetchAddr, if_pos hjumped, State.storedPc, hpc]
  · apply state_ext <;> simp

/-- Settles O10: the fields of the reset state. -/
theorem resetStateHasTheGivenValues : Obligations.ResetStateHasTheGivenValues := by
  unfold Obligations.ResetStateHasTheGivenValues
  decide

/-- Settles O11: an ordinary write of 4 to register 15. -/
theorem undefinedEntryWritesOnlyThePc : Obligations.UndefinedEntryWritesOnlyThePc := by
  unfold Obligations.UndefinedEntryWritesOnlyThePc
  intro s
  have hjumped : (hostUndefinedEntry s).jumped = true := Bool.or_true _
  have hget : ∀ i, (hostUndefinedEntry s).regs.get i = if i = Reg.pc then 4 else s.regs.get i := writeReg_get s Reg.pc 4
  have hpc : (hostUndefinedEntry s).regs.get Reg.pc = 4 := by rw [hget, if_pos rfl]
  refine ⟨hpc, hjumped, fun i hi => ?_, ?_, ?_⟩
  · rw [hget, if_neg hi]
  · rw [State.nextFetchAddr, if_pos hjumped, State.storedPc, hpc]
  · apply state_ext <;> simp [hostUndefinedEntry, undefinedEntry]

end Sys2Proof.Machine
end

section
/-! Multiple transfers: addresses and lists (R220), LDM as reads in order and then register writes (R221), STM as writes in order
(R222). -/
namespace Sys2Proof.Machine

/-! ## Addresses and lists (R220) -/

theorem transferLength_eq (list : BitVec 16) : transferLength list = 4 * BitVec.ofNat 32 (regList list).length := by
  rw [transferLength, BitVec.ofNat_mul]
  rfl

theorem mem_regList (list : BitVec 16) (i : Reg) : i ∈ regList list ↔ list.getLsbD i.val = true := by
  have hall : ∀ i : Reg, i ∈ allRegs := by decide
  simp only [regList, List.mem_filter, hall, true_and]

theorem regList_pairwise (list : BitVec 16) : (regList list).Pairwise (· < ·) :=
  List.Pairwise.filter _ (show allRegs.Pairwise (· < ·) by decide)

theorem regList_nodup (list : BitVec 16) : (regList list).Nodup :=
  (regList_pairwise list).imp fun hlt => Fin.ne_of_lt hlt

theorem regList_length_le (list : BitVec 16) : (regList list).length ≤ 16 :=
  List.length_filter_le ..

/-- Settles O39: the four variants, and the list as a filter of the sixteen registers. -/
theorem multipleTransferAddresses : Obligations.MultipleTransferAddresses := by
  unfold Obligations.MultipleTransferAddresses
  intro m s base n len
  have hlen : transferLength m.list = len := transferLength_eq m.list
  refine ⟨fun hp hu => ?_, fun hp hu => ?_, fun hp hu => ?_, fun hp hu => ?_, ?_,
    regList_pairwise m.list, mem_regList m.list⟩
  · simp only [startAddress, hp, hu]
    rfl
  · simp only [startAddress, hp, hu]
    rfl
  · simp only [startAddress, hp, hu, hlen]
    rfl
  · simp only [startAddress, hp, hu, hlen]
    rfl
  · simp only [multipleBase, hlen]
    rfl

/-- The k-th word address from `a` up: `transferAddress m s k` is that from `startAddress m s` (R220). -/
def wordAddress (a : Word) (k : Nat) : Word :=
  a + 4 * BitVec.ofNat 32 k

theorem wordAddress_zero (a : Word) : wordAddress a 0 = a := by
  simp [wordAddress]

theorem wordAddress_succ (a : Word) (k : Nat) : wordAddress a (k + 1) = wordAddress (a + 4) k := by
  apply BitVec.eq_of_toNat_eq
  simp only [wordAddress, BitVec.toNat_add, BitVec.toNat_mul, BitVec.toNat_ofNat, show (4 : Word).toNat = 4 from rfl]
  omega

/-- The words of two transfers of one instruction have no byte in common. -/
theorem alignedWord_disjoint (a : Word) {k j : Nat} (hk : k < 16) (hj : j < 4) :
    ¬(alignedWord (wordAddress (a + 4) k) ≤ alignedWord a + j ∧
      alignedWord a + j < alignedWord (wordAddress (a + 4) k) + 4) := by
  have ha := a.isLt
  rw [← wordAddress_succ]
  simp only [alignedWord, wordAddress, BitVec.toNat_add, BitVec.toNat_mul, BitVec.toNat_ofNat,
    show (4 : Word).toNat = 4 from rfl]
  omega

/-! ## Reads and the register file -/

/-- `s` with another register file. -/
def withRegs (r : Vector Word 16) (s : State) : State :=
  { s with regs := r }

theorem writeReg_eq_withRegs {i : Reg} (hi : i ≠ Reg.pc) (v : Word) (s : State) :
    s.writeReg i v = withRegs (s.regs.set i.val v i.isLt) s := by
  simp [State.writeReg, withRegs, hi]

section
variable (r : Vector Word 16) (s : State)

theorem deviceRead_withRegs (g : Region) (off : Addr) :
    deviceRead g off (withRegs r s) = ((deviceRead g off s).1, withRegs r (deviceRead g off s).2) := by
  simp only [deviceRead]
  split <;> rfl

theorem busRead_withRegs (a : Addr) (d : Nat) :
    busRead a d (withRegs r s) = (busRead a d s).map fun x => (x.1, withRegs r x.2) := by
  have hmap : (withRegs r s).cfg.addressMap = s.cfg.addressMap := rfl
  simp only [busRead, hmap, deviceRead_withRegs]
  split
  · rfl
  · split
    · rfl
    · split <;> rfl

theorem readWord_withRegs (a : Word) :
    readWord a (withRegs r s) = (readWord a s).map fun x => (x.1, withRegs r x.2) := by
  simp only [readWord, busRead_withRegs]
  cases busRead (a.setWidth 64) 32 s <;> rfl

end

/-! ## Reads in order -/

theorem readSeq_cons_ok {n : Nat} {a v : Word} {s t : State} (h : readWord a s = .ok (v, t)) :
    readSeq (n + 1) a s = (readSeq n (a + 4) t).map fun x => (v :: x.1, x.2) := by
  simp only [readSeq, h]
  cases readSeq n (a + 4) t <;> rfl

theorem readSeq_cons_error {n : Nat} {a : Word} {s : State} {e : Fault} (h : readWord a s = .error e) :
    readSeq (n + 1) a s = .error e := by
  simp only [readSeq, h]

/-- The reads of a sequence that succeeds: the first, then the others. -/
theorem readSeq_succ_ok {n : Nat} {a : Word} {s u : State} {vs : List Word} (h : readSeq (n + 1) a s = .ok (vs, u)) :
    ∃ v t rest, readWord a s = .ok (v, t) ∧ readSeq n (a + 4) t = .ok (rest, u) ∧ vs = v :: rest := by
  cases hr : readWord a s with
  | error e =>
    rw [readSeq_cons_error hr] at h
    cases h
  | ok x =>
    obtain ⟨v, t⟩ := x
    rw [readSeq_cons_ok hr] at h
    cases hrest : readSeq n (a + 4) t with
    | error e =>
      rw [hrest] at h
      cases h
    | ok y =>
      rw [hrest] at h
      cases h
      exact ⟨v, t, y.1, rfl, hrest, rfl⟩

theorem readSeq_withRegs (r : Vector Word 16) (n : Nat) (a : Word) (s : State) :
    readSeq n a (withRegs r s) = (readSeq n a s).map fun x => (x.1, withRegs r x.2) := by
  induction n generalizing a s with
  | zero => rfl
  | succ n ih =>
    have hread := readWord_withRegs r s a
    cases hr : readWord a s with
    | error e =>
      rw [hr] at hread
      rw [readSeq_cons_error hread, readSeq_cons_error hr]
      rfl
    | ok x =>
      obtain ⟨v, t⟩ := x
      rw [hr] at hread
      rw [readSeq_cons_ok hread, ih, readSeq_cons_ok hr]
      cases readSeq n (a + 4) t <;> rfl

theorem readSeq_length {n : Nat} {a : Word} {s u : State} {vs : List Word} (h : readSeq n a s = .ok (vs, u)) :
    vs.length = n := by
  induction n generalizing a s vs with
  | zero =>
    cases h
    rfl
  | succ n ih =>
    obtain ⟨v, t, rest, -, hrest, rfl⟩ := readSeq_succ_ok h
    rw [List.length_cons, ih hrest]

theorem readSeq_regs {n : Nat} {a : Word} {s u : State} {vs : List Word} (h : readSeq n a s = .ok (vs, u)) :
    u.regs = s.regs := by
  induction n generalizing a s vs with
  | zero =>
    cases h
    rfl
  | succ n ih =>
    obtain ⟨v, t, rest, hr, hrest, -⟩ := readSeq_succ_ok h
    rw [ih hrest, (readWord_readsOnly hr).regs]

/-- Over RAM the reads give the bytes there and change nothing. -/
theorem readSeq_ram {n : Nat} {a : Word} {s : State} (h : ∀ k, k < n → RamWordAt (wordAddress a k) s) :
    readSeq n a s = .ok ((List.range n).map fun k => ramWord (wordAddress a k) s, s) := by
  induction n generalizing a with
  | zero => rfl
  | succ n ih =>
    have hfirst := h 0 (Nat.succ_pos n)
    rw [wordAddress_zero] at hfirst
    have hrest := ih (a := a + 4) fun k hk => by
      rw [← wordAddress_succ]
      exact h (k + 1) (Nat.succ_lt_succ hk)
    rw [readSeq_cons_ok (readWord_ram hfirst), hrest, List.range_succ_eq_map, List.map_cons, List.map_map, wordAddress_zero]
    simp only [← wordAddress_succ]
    rfl

/-! ## The transfers of an LDM -/

/-- The register file after the words `vs` went to the registers `l`, register 15 left out. -/
def loadedRegs : List Reg → List Word → Vector Word 16 → Vector Word 16
  | i :: l, v :: vs, r => loadedRegs l vs (if i = Reg.pc then r else r.set i.val v i.isLt)
  | _, _, r => r

/-- The word of `vs` that goes to register 15, or `p` if none does. -/
def loadedPc : List Reg → List Word → Option Word → Option Word
  | i :: l, v :: vs, p => loadedPc l vs (if i = Reg.pc then some v else p)
  | _, _, p => p

/-- What the transfers of an LDM leave once its reads gave `vs` and the state `u`. -/
def loadedOf (l : List Reg) (vs : List Word) (p : Option Word) (u : State) : Loaded where
  pcValue := loadedPc l vs p
  state := withRegs (loadedRegs l vs u.regs) u

/-- The loop of R221 is its reads in order and then its register writes: no read sees a register. -/
theorem loadList_eq (l : List Reg) (a : Word) (acc : Loaded) :
    loadList l a acc = (readSeq l.length a acc.state).map fun x => loadedOf l x.1 acc.pcValue x.2 := by
  induction l generalizing a acc with
  | nil => rfl
  | cons i rest ih =>
    cases hr : readWord a acc.state with
    | error e =>
      rw [List.length_cons, readSeq_cons_error hr]
      simp only [loadList, hr]
      rfl
    | ok x =>
      obtain ⟨v, t⟩ := x
      rw [List.length_cons, readSeq_cons_ok hr]
      by_cases hi : i = Reg.pc
      · simp only [loadList, hr, hi, if_true, ih]
        cases readSeq rest.length (a + 4) t <;> rfl
      · simp only [loadList, hr, hi, if_false, ih, writeReg_eq_withRegs hi, readSeq_withRegs]
        cases hrest : readSeq rest.length (a + 4) t with
        | error e => rfl
        | ok y =>
          have hregs : y.2.regs = t.regs := readSeq_regs hrest
          simp only [Except.map, loadedOf, loadedRegs, loadedPc, hi, if_false, hregs]
          rfl

theorem loadedRegs_get_of_notMem {l : List Reg} {i : Reg} (hi : i ∉ l) (vs : List Word) (r : Vector Word 16) :
    (loadedRegs l vs r).get i = r.get i := by
  induction l generalizing vs r with
  | nil => rfl
  | cons j l ih =>
    obtain ⟨hij, hil⟩ := not_or.1 (mt List.mem_cons.2 hi)
    cases vs with
    | nil => rfl
    | cons v vs =>
      rw [loadedRegs, ih hil]
      split
      · rfl
      · rw [get_set, if_neg fun heq => hij (Fin.ext heq)]

theorem loadedRegs_get {l : List Reg} (hl : l.Nodup) {vs : List Word} {r : Vector Word 16} {k : Nat} {i : Reg} {v : Word}
    (hi : l[k]? = some i) (hv : vs[k]? = some v) (hpc : i ≠ Reg.pc) : (loadedRegs l vs r).get i = v := by
  induction l generalizing vs r k with
  | nil => cases hi
  | cons j l ih =>
    obtain ⟨hjl, hl⟩ := List.nodup_cons.1 hl
    cases vs with
    | nil => cases hv
    | cons w vs =>
      cases k with
      | zero =>
        cases hi
        cases hv
        rw [loadedRegs, if_neg hpc, loadedRegs_get_of_notMem hjl, get_set, if_pos rfl]
      | succ k => exact ih hl hi hv

theorem loadedPc_of_notMem {l : List Reg} (h : Reg.pc ∉ l) (vs : List Word) (p : Option Word) : loadedPc l vs p = p := by
  induction l generalizing vs p with
  | nil => rfl
  | cons j l ih =>
    obtain ⟨hj, hl⟩ := not_or.1 (mt List.mem_cons.2 h)
    cases vs with
    | nil => rfl
    | cons v vs => rw [loadedPc, ih hl, if_neg (Ne.symm hj)]

theorem loadedPc_eq {l : List Reg} (hl : l.Nodup) {vs : List Word} {p : Option Word} {k : Nat} {v : Word}
    (hi : l[k]? = some Reg.pc) (hv : vs[k]? = some v) : loadedPc l vs p = some v := by
  induction l generalizing vs p k with
  | nil => cases hi
  | cons j l ih =>
    obtain ⟨hjl, hl⟩ := List.nodup_cons.1 hl
    cases vs with
    | nil => cases hv
    | cons w vs =>
      cases k with
      | zero =>
        cases hi
        cases hv
        rw [loadedPc, if_pos rfl, loadedPc_of_notMem hjl]
      | succ k => exact ih hl hi hv

/-! ## The end of a multiple transfer -/

theorem multipleUpdate_get (m : LsmOperand) (wb : Word) (s : State) (i : Reg) :
    (multipleUpdate m wb s).regs.get i = if m.w = true ∧ i = m.rn then wb else s.regs.get i := by
  simp only [multipleUpdate, ite_and]
  split
  · exact writeReg_get ..
  · rfl

theorem multipleUpdate_jumped (m : LsmOperand) (wb : Word) (s : State) :
    (multipleUpdate m wb s).jumped = (s.jumped || (m.w && decide (m.rn = Reg.pc))) := by
  rw [multipleUpdate_frame]

theorem finishLoad_busTick (m : LsmOperand) (wb : Word) (l : Loaded) : (finishLoad m wb l).busTick = l.state.busTick := by
  rw [finishLoad_frame]

theorem finishLoad_get_pc {m : LsmOperand} {wb v : Word} {l : Loaded} (h : l.pcValue = some v) :
    (finishLoad m wb l).regs.get Reg.pc = v &&& 0xfffffffe := by
  simp only [finishLoad, h]
  exact (writeReg_get ..).trans (if_pos rfl)

/-- The registers that the write of register 15 leaves alone. -/
theorem finishLoad_get {m : LsmOperand} {wb : Word} {l : Loaded} {i : Reg} (h : ¬(l.pcValue.isSome = true ∧ i = Reg.pc)) :
    (finishLoad m wb l).regs.get i = if m.w = true ∧ i = m.rn then wb else l.state.regs.get i := by
  rw [← multipleUpdate_get]
  simp only [finishLoad]
  split
  case h_1 => rfl
  case h_2 v hv => exact (writeReg_get ..).trans (if_neg fun heq => h ⟨by rw [hv]; rfl, heq⟩)

theorem finishLoad_jumped (m : LsmOperand) (wb : Word) (l : Loaded) :
    (finishLoad m wb l).jumped = (l.state.jumped || (l.pcValue.isSome || (m.w && decide (m.rn = Reg.pc)))) := by
  simp only [finishLoad]
  split
  case h_1 hv => rw [multipleUpdate_jumped, hv, Option.isSome_none, Bool.false_or]
  case h_2 v hv => rw [writePcInterworking_frame, hv, Option.isSome_some, Bool.true_or, Bool.or_true]

/-! ## LDM -/

section
variable {c : Cond} {m : LsmOperand} {s : State} (hc : condPassed c s.cpsr = true) (hm : MultipleDefined m s)
include hc hm

theorem exec_ldm_ok {l : Loaded} (h : loadList (regList m.list) (startAddress m s) { pcValue := none, state := s } = .ok l) :
    exec (.ldm c m) s = .next (finishLoad m (multipleBase m s) l) := by
  show execLdm c m s = _
  rw [execLdm, h, multipleTransfer_defined hc hm]
  rfl

theorem exec_ldm_error {e : Fault}
    (h : loadList (regList m.list) (startAddress m s) { pcValue := none, state := s } = .error e) :
    exec (.ldm c m) s = .fault e := by
  show execLdm c m s = _
  rw [execLdm, h, multipleTransfer_defined hc hm]
  rfl

end

theorem ldm_post {m : LsmOperand} {s u : State} {vs : List Word} (hm : MultipleDefined m s)
    (hread : readSeq (regList m.list).length (startAddress m s) s = .ok (vs, u))
    (hloads : LoadsList m.list s (loadedOf (regList m.list) vs none u)) :
    LdmPost m vs s u (finishLoad m (multipleBase m s) (loadedOf (regList m.list) vs none u)) where
  count := readSeq_length hread
  values k i v hi hv hpc := by
    have hmem := (mem_regList m.list i).1 (List.mem_of_getElem? hi)
    rw [finishLoad_get fun h => hpc h.2, if_neg]
    · exact loadedRegs_get (regList_nodup _) hi hv hpc
    · rintro ⟨hw, rfl⟩
      exact hm.1 ⟨hw, hmem⟩
  pcValue k v hi hv := by
    have hpc : (loadedOf (regList m.list) vs none u).pcValue = some v := loadedPc_eq (regList_nodup _) hi hv
    rw [finishLoad_cpsr, finishLoad_get_pc hpc, hpc]
    exact ⟨rfl, flagT_withT ..⟩
  base hw hne := by
    rw [finishLoad_get, if_pos ⟨hw, rfl⟩]
    rw [hloads.pcValue]
    exact fun h => hne h.symm
  otherRegs i hi hne := by
    rw [finishLoad_get, if_neg hne]
    · have hmem : i ∉ regList m.list := by rw [mem_regList, hi]; decide
      exact (loadedRegs_get_of_notMem hmem ..).trans (by rw [readSeq_regs hread])
    · rw [hloads.pcValue]
      rintro ⟨hlist, rfl⟩
      exact absurd (hi.symm.trans hlist) (by decide)
  statusKept hlist := by
    have hnone : (loadedOf (regList m.list) vs none u).pcValue = none :=
      Option.not_isSome_iff_eq_none.1 (by rw [hloads.pcValue, hlist]; decide)
    rw [finishLoad_cpsr, hnone]
    exact hloads.cpsr
  statusBits k hk := by
    rw [finishLoad_cpsr, hloads.cpsr]
    cases (loadedOf (regList m.list) vs none u).pcValue with
    | none => rfl
    | some v => exact withT_getLsbD_of_ne _ _ hk
  jumped := by
    rw [finishLoad_jumped, hloads.jumped, hloads.pcValue]
  others := by
    apply state_ext <;>
      simp only [finishLoad_spsr, hloads.spsr, finishLoad_coproc, hloads.coproc, finishLoad_mem, hloads.mem,
        finishLoad_periph, finishLoad_busTick, finishLoad_stop, hloads.stop, finishLoad_haltReq, hloads.haltReq,
        finishLoad_cfg, hloads.cfg]
    · rfl
    · rfl

/-- An LDM whose reads succeed. -/
theorem exec_ldm_reads {c : Cond} {m : LsmOperand} {s u : State} {vs : List Word} (hc : condPassed c s.cpsr = true)
    (hm : MultipleDefined m s) (hread : readSeq (regList m.list).length (startAddress m s) s = .ok (vs, u)) :
    ∃ t, exec (.ldm c m) s = .next t ∧ LdmPost m vs s u t := by
  have hload : loadList (regList m.list) (startAddress m s) { pcValue := none, state := s } =
      .ok (loadedOf (regList m.list) vs none u) := by
    rw [loadList_eq, hread]
    rfl
  exact ⟨_, exec_ldm_ok hc hm hload, ldm_post hm hread (loadList_loadsList hload)⟩

/-- Settles O40: the reads in order, then the registers they give. -/
theorem ldmLoadsTheList : Obligations.LdmLoadsTheList := by
  unfold Obligations.LdmLoadsTheList
  intro c m s hc hm n
  refine ⟨fun hram => exec_ldm_reads hc hm (readSeq_ram hram), fun e he => exec_ldm_error hc hm ?_,
    fun vs u hread => exec_ldm_reads hc hm hread⟩
  rw [loadList_eq, he]
  rfl

/-! ## STM -/

theorem writeSeq_cons_ok {v : Word} {vs : List Word} {a : Word} {s t : State} (h : writeWord a v s = .ok t) :
    writeSeq (v :: vs) a s = writeSeq vs (a + 4) t := by
  simp only [writeSeq, h]

/-- The loop of R222 stores the values the registers have before it: no write changes one. -/
theorem storeList_eq (l : List Reg) (a : Word) (s : State) : storeList l a s = writeSeq (l.map s.readReg) a s := by
  induction l generalizing a s with
  | nil => rfl
  | cons i rest ih =>
    cases hw : writeWord a (s.readReg i) s with
    | error e => simp only [storeList, List.map_cons, writeSeq, hw]
    | ok t =>
      have hsame : rest.map t.readReg = rest.map s.readReg :=
        List.map_congr_left fun j _ => readReg_congr (busWrite_writesBus hw).regs j
      rw [List.map_cons, writeSeq_cons_ok hw, ← hsame, ← ih]
      simp only [storeList, hw]

/-- The words `vs` stand in RAM at the word addresses from `a` up, and every other byte of `m'` is as in `m`. -/
structure WordsWritten (m m' : List Host.Cell) (a : Word) (vs : List Word) : Prop where
  words : ∀ (k : Nat) (v : Word) (j : Nat), vs[k]? = some v → j < 4 →
    readByte m' (alignedWord (wordAddress a k) + j) = v.extractLsb' (8 * j) 8
  others : ∀ x, (∀ k, k < vs.length →
      ¬(alignedWord (wordAddress a k) ≤ x ∧ x < alignedWord (wordAddress a k) + 4)) → readByte m' x = readByte m x

/-- A word written before those at the following addresses stays. -/
theorem WordsWritten.cons {m m1 m' : List Host.Cell} {a v : Word} {vs : List Word} (hlen : vs.length < 16)
    (hfirst : BytesWritten m m1 (alignedWord a) 4 (v.setWidth 64)) (hrest : WordsWritten m1 m' (a + 4) vs) :
    WordsWritten m m' a (v :: vs) where
  words k w j hw hj := by
    cases k with
    | zero =>
      cases hw
      rw [wordAddress_zero, hrest.others _ fun k hk => alignedWord_disjoint a (by omega) hj, hfirst, if_pos (by omega),
        Nat.add_sub_cancel_left, byte_setWidth_word _ hj]
    | succ k =>
      rw [wordAddress_succ]
      exact hrest.words k w j hw hj
  others x hx := by
    have hzero := hx 0 (Nat.succ_pos _)
    rw [wordAddress_zero] at hzero
    rw [hrest.others x fun k hk => by rw [← wordAddress_succ]; exact hx (k + 1) (Nat.succ_lt_succ hk), hfirst, if_neg hzero]

/-- Over RAM the writes store the words and no other byte. -/
theorem writeSeq_ram {vs : List Word} {a : Word} {s : State} (hm : Memory.wf s.mem = true) (hlen : vs.length ≤ 16)
    (hram : ∀ k, k < vs.length → RamWordAt (wordAddress a k) s) :
    ∃ m', writeSeq vs a s = .ok { s with mem := m' } ∧ WordsWritten s.mem m' a vs := by
  induction vs generalizing a s with
  | nil => exact ⟨s.mem, rfl, nofun, fun _ _ => rfl⟩
  | cons v vs ih =>
    have hfirst := hram 0 (Nat.succ_pos _)
    rw [wordAddress_zero] at hfirst
    obtain ⟨m1, hwrite, hm1, hbytes⟩ := writeWord_ram hm hfirst v
    obtain ⟨m', hseq, hwords⟩ := ih (a := a + 4) (s := { s with mem := m1 }) hm1 (Nat.le_of_succ_le hlen) fun k hk => by
      rw [← wordAddress_succ]
      exact hram (k + 1) (Nat.succ_lt_succ hk)
    exact ⟨m', (writeSeq_cons_ok hwrite).trans hseq, .cons hlen hbytes hwords⟩

section
variable {c : Cond} {m : LsmOperand} {s : State} (hc : condPassed c s.cpsr = true) (hm : MultipleDefined m s)
include hc hm

theorem exec_stm_ok {u : State} (h : writeSeq ((regList m.list).map s.readReg) (startAddress m s) s = .ok u) :
    exec (.stm c m) s = .next (multipleUpdate m (multipleBase m s) u) := by
  show execStm c m s = _
  rw [execStm, storeList_eq, h, multipleTransfer_defined hc hm]
  rfl

theorem exec_stm_error {e : Fault} (h : writeSeq ((regList m.list).map s.readReg) (startAddress m s) s = .error e) :
    exec (.stm c m) s = .fault e := by
  show execStm c m s = _
  rw [execStm, storeList_eq, h, multipleTransfer_defined hc hm]
  rfl

end

/-- Settles O41: the writes in order, then the base. -/
theorem stmStoresTheList : Obligations.StmStoresTheList := by
  unfold Obligations.StmStoresTheList
  intro c m s hc hm
  refine ⟨fun hmem hram => ?_, fun u h => exec_stm_ok hc hm h, fun e h => exec_stm_error hc hm h⟩
  have hlen : ((regList m.list).map s.readReg).length = (regList m.list).length := List.length_map _
  obtain ⟨mem', hwrite, hwords⟩ := writeSeq_ram (vs := (regList m.list).map s.readReg) hmem
    (hlen.trans_le (regList_length_le _)) fun k hk => hram k (hk.trans_eq hlen)
  refine ⟨_, exec_stm_ok hc hm hwrite, fun k i j hi hj => ?_, fun x hx => ?_, fun hw => ?_, fun i hi => ?_,
    multipleUpdate_jumped .., ?_⟩
  · rw [State.byteAt, multipleUpdate_mem]
    exact hwords.words k _ j (by rw [List.getElem?_map, hi, Option.map_some]) hj
  · rw [State.byteAt, multipleUpdate_mem]
    exact hwords.others x fun k hk => hx k (hk.trans_eq hlen)
  · rw [multipleUpdate_get, if_pos ⟨hw, rfl⟩]
  · rw [multipleUpdate_get, if_neg hi]
  · apply state_ext <;> simp

end Sys2Proof.Machine
end
